-- ==== Sys2Proof/Word.lean ====
section
/-! DEFINITION. The word types of the block and the byte count of a bit stream. -/

namespace Sys2Proof

/-- One byte of a buffer or of a host record. -/
abbrev Byte := BitVec 8

/-- A command word (30_encoding.md R70: every command word is 64 bits). -/
abbrev Word64 := BitVec 64

/-- `ceil(n / 8)`, the bytes that hold `n` stream bits (20_memory.md R56). -/
def bytesFor (n : Nat) : Nat := (n + 7) / 8

end Sys2Proof
end

