-- ==== Sys2Proof/Syntax.lean ====
section
/-! DEFINITION. Instructions: the three command kinds and the 23 host operations (00_scope.md R21), with their operand types. -/

namespace Sys2Proof

/-- The 16 TAP states (10_state.md R22). -/
inductive TapState where
  | reset | idle
  | selectDR | captureDR | shiftDR | exit1DR | pauseDR | exit2DR | updateDR
  | selectIR | captureIR | shiftIR | exit1IR | pauseIR | exit2IR | updateIR
  deriving DecidableEq, Repr

/-- Direction of a shift (41_shift_engine.md R98). -/
inductive Dir where
  | dr | ir
  deriving DecidableEq, Repr

/-- TDI source of a SHIFT command word (30_encoding.md R73): buffer `T` when `I = 1`, else the constant `F` repeated. -/
inductive TdiSource where
  | buf (handle : Nat)
  | fill (ones : Bool)
  deriving DecidableEq, Repr

/-- `tdi_mode` and `tdi_bytes` of the host operation SHIFT (41_shift_engine.md R106). -/
inductive TdiMode where
  | buf (bytes : List Byte)
  | zeros
  | ones
  deriving DecidableEq, Repr

/-- One GPIO line number per logical pin (10_state.md R27 `PORT.PINMAP`, R29). -/
structure PinMap where
  tms : Nat
  tck : Nat
  tdi : Nat
  tdo : Nat
  hwmStart : Nat
  hwmReady : Nat
  hwmEnd : Nat
  deriving DecidableEq, Repr

/-- Every row of the opcode table. Counts and handles are unbounded naturals (00_scope.md R15): a value that does not fit
its field is representable, and the operation's meaning faults on it (60_exceptions.md R176 `ValueTooWide`). -/
inductive Instr where
  /-- SETSTATE, 43_executor.md R121. -/
  | setState (state : TapState) (idle : Nat)
  /-- SHIFT.DR, 43_executor.md R122: bit count, TDI source, TDO buffer, exit state. -/
  | shiftDr (n : Nat) (tdi : TdiSource) (tdo : Option Nat) (exit : TapState)
  /-- SHIFT.IR, 43_executor.md R122. -/
  | shiftIr (n : Nat) (tdi : TdiSource) (tdo : Option Nat) (exit : TapState)
  /-- PORT_INIT, 45_identity.md R139. -/
  | portInit (pinmap : PinMap)
  /-- NAVIGATE, 40_navigator.md R91. -/
  | navigate (target : TapState)
  /-- PULSE, 40_navigator.md R95. -/
  | pulse (count : Nat)
  /-- SHIFT (host operation), 41_shift_engine.md R106. -/
  | shift (dir : Dir) (n : Nat) (tdi : TdiMode) (capture : Bool) (exit : TapState)
  /-- SEQ_CREATE, 42_sequence_builder.md R110. -/
  | seqCreate (node : Nat)
  /-- SEQ_ADD_STATE, 42_sequence_builder.md R111. -/
  | seqAddState (seq : Nat) (state : TapState) (idle : Nat)
  /-- SEQ_ADD_SHIFT, 42_sequence_builder.md R112. -/
  | seqAddShift (seq flags bitCount : Nat) (wantTdi wantTdo : Bool) (exit : TapState)
  /-- SEQ_CLEAR, 42_sequence_builder.md R114. -/
  | seqClear (seq : Nat)
  /-- SEQ_DELETE, 42_sequence_builder.md R115. -/
  | seqDelete (seq : Nat)
  /-- BUF_WRITE, 42_sequence_builder.md R116. -/
  | bufWrite (seq handle offset : Nat) (bytes : List Byte)
  /-- BUF_READ, 42_sequence_builder.md R117. -/
  | bufRead (seq handle offset n : Nat)
  /-- SEQ_RUN, 43_executor.md R118. -/
  | seqRun (seq : Nat)
  /-- DETECT_TAPS, 44_discovery.md R129. -/
  | detectTaps
  /-- IDENTIFY, 45_identity.md R140. -/
  | identify (idCode : Nat)
  /-- SET_PADS, 45_identity.md R142. -/
  | setPads (irPre irPost drPre drPost : Nat)
  /-- SELECT_TARGET, 45_identity.md R143. -/
  | selectTarget (ordinal : Nat)
  /-- JPROGRAM, 46_efuse.md R158. -/
  | jprogram
  /-- EFUSE_PROGRAM_ROW, 46_efuse.md R150. -/
  | efuseProgramRow (row bit page : Nat) (redundant : Bool)
  /-- EFUSE_READ_ROW, 46_efuse.md R156. -/
  | efuseReadRow (row page : Nat) (redundant : Bool)
  /-- KEY_LOAD, 47_bbram.md R161. -/
  | keyLoad (keyBytes : List Byte) (crcValid : Bool) (crc : Nat)
  /-- BBRAM_PROGRAM, 47_bbram.md R163. -/
  | bbramProgram
  /-- BBRAM_VERIFY, 47_bbram.md R165. -/
  | bbramVerify
  /-- KEY_READBACK, 47_bbram.md R170. -/
  | keyReadback
  deriving DecidableEq, Repr

end Sys2Proof
end

