-- ==== Sys2Proof/Config.lean ====
section
/-! DEFINITION. The implementation parameters of 00_scope.md R10: source and decision values as definitions, OPEN values as
opaque constants clamped to the constraints the spec gives, and the free values of the environment (notes/assumptions/11.md to
15.md). -/

namespace Sys2Proof

/-- A family tag: an element of the OPEN family enumeration of `DEVICE_TABLE` (10_state.md R27; notes/assumptions/25.md). -/
abbrev Family := Nat

/-- A Device Identity record (10_state.md R40). -/
structure DeviceRow where
  id28 : BitVec 28
  family : Family
  irLength : BitVec 8
  segments : BitVec 8
  masterSegment : BitVec 8
  deriving DecidableEq, Repr

/-- The output pins (10_state.md R29). -/
inductive OutPin where
  | tms | tck | tdi | hwmStart
  deriving DecidableEq, Repr

/-- The input pins (10_state.md R29). -/
inductive InPin where
  | tdo | hwmReady | hwmEnd
  deriving DecidableEq, Repr

/-- One element of the observable trace (20_memory.md R62): a pin write, a pin sample, each with the GPIO line that carries it
(60_exceptions.md R185), or a timer reading. -/
inductive Event where
  | write (p : OutPin) (line : Nat) (b : Bool)
  | read (p : InPin) (line : Nat) (b : Bool)
  | timer (t : BitVec 64)
  deriving DecidableEq, Repr

/-- The device JTAG instructions the block loads (30_encoding.md R81). -/
inductive DeviceOp where
  | fuseCts | iscEnable | iscProgramKey | iscProgram | iscRead | jprogram
  deriving DecidableEq, Repr

namespace Config

/-! ## Values the source or the spec fixes -/

/-- `MAX_SHIFT_BITS`, 2^23 − 1. -/
def maxShiftBits : Nat := 8388607
/-- `ID_MASK`. -/
def idMask : BitVec 32 := 0x0FFFFFFF#32
/-- `RESET_CLOCKS`. -/
def resetClocks : Nat := 5
/-- `EFUSE_DR_BITS`. -/
def efuseDrBits : Nat := 64
/-- `FUSE_PULSE_HOLD_US`. -/
def fusePulseHoldUs : Nat := 12
/-- `JPROGRAM_SETTLE_US`. -/
def jprogramSettleUs : Nat := 100000
/-- `BBRAM_ENABLE_IDLE`. -/
def bbramEnableIdle : Nat := 12
/-- `BBRAM_PROGRAM_KEY_IDLE`. -/
def bbramProgramKeyIdle : Nat := 9
/-- `BBRAM_KEY_WORDS`. -/
def bbramKeyWords : Nat := 8
/-- `BBRAM_PROGRAM_IDLE`. -/
def bbramProgramIdle : Nat := 1
/-- `BBRAM_READ_BITS`. -/
def bbramReadBits : Nat := 37
/-- `BBRAM_READY`. -/
def bbramReady : BitVec 5 := 0#5
/-- `BBRAM_READ_IDLE`. -/
def bbramReadIdle : Nat := 1
/-- Number of sequence handles and of buffer handles of one sequence (`HANDLE_WIDTH` 16). -/
def handleCount : Nat := 65536
/-- `BBRAM_JPROGRAM_FIRST` (46_efuse.md R159): no operation but JPROGRAM issues JPROGRAM. -/
def bbramJprogramFirst : Bool := false

/-! ## OPEN values: no body, so no proof can see them -/

opaque rawGpioCount : Nat
/-- `GPIO_COUNT`, any integer ≥ 7. -/
def gpioCount : Nat := rawGpioCount + 7

opaque rawMaxTaps : Nat
/-- `MAX_TAPS`, any integer from 1 to 255; `32·(MAX_TAPS + 1) ≤ MAX_SHIFT_BITS` then holds. -/
def maxTaps : Nat := rawMaxTaps % 255 + 1

opaque rawDummyId : BitVec 32
/-- `DUMMY_ID`, any 32-bit value with bit 0 = 1. -/
def dummyId : BitVec 32 := rawDummyId ||| 1#32

/-- What 45_identity.md R141 requires of every row of `DEVICE_TABLE`, and that no row matches `DUMMY_ID`. -/
def rowLegal (dummy : BitVec 32) (r : DeviceRow) : Bool :=
  decide (r.irLength ≠ 0#8) && decide (r.segments ≠ 0#8) && decide (r.masterSegment.toNat < r.segments.toNat) &&
    decide (r.id28 ≠ dummy.extractLsb' 0 28)

opaque rawDeviceTable : List DeviceRow
/-- `DEVICE_TABLE`, any ordered list of legal rows (notes/assumptions/14.md). -/
def deviceTable : List DeviceRow := rawDeviceTable.filter (rowLegal dummyId)

/-- `OP_FUSE_CTS`, `OP_ISC_ENABLE`, `OP_ISC_PROGRAM_KEY`, `OP_ISC_PROGRAM`, `OP_ISC_READ`, `OP_JPROGRAM`, per family; the IR load
uses the low `IR_LEN` bits (notes/assumptions/15.md). -/
opaque deviceOpcode : DeviceOp → Family → Nat

/-- `OP_XSC_PROGRAM_SLR(s)`: no rule reads it (46_efuse.md R148). -/
opaque xscProgramSlr : Family → Nat → Nat

/-- `EFUSE_DR_ENCODE(family, row, bit, page, redundant, program)`: a word, or none outside the fuse array (30_encoding.md R83). -/
opaque efuseDrEncode : Family → BitVec 16 → BitVec 5 → BitVec 8 → Bool → Bool → Option (BitVec 64)

/-- `EFUSE_PROG_IDLE`, any integer ≥ 0. -/
opaque efuseProgIdle : Nat

/-- `EFUSE_READ_IDLE`, any integer ≥ 0. -/
opaque efuseReadIdle : Nat

opaque rawHwmTimeoutUs : Nat
/-- `HWM_TIMEOUT_US`, any integer ≥ 1. -/
def hwmTimeoutUs : Nat := rawHwmTimeoutUs + 1

/-- `BBRAM_ENABLE_DR`. -/
opaque bbramEnableDr : BitVec 5

opaque rawBbramProgramKeyBits : Nat
/-- `BBRAM_PROGRAM_KEY_BITS`, any integer ≥ 1. -/
def bbramProgramKeyBits : Nat := rawBbramProgramKeyBits + 1

/-- `BBRAM_CRC_FN`, from the read-back key words to a CRC (47_bbram.md R168). -/
opaque bbramCrcFn : Vector (BitVec 32) 8 → BitVec 32

/-! ## Free values of the environment, functions of the whole trace so far (newest event first) -/

/-- What an input pin reads (60_exceptions.md R186; notes/assumptions/11.md). -/
opaque pinSample : InPin → List Event → Bool

/-- Microseconds that pass before the next timer reading (60_exceptions.md R187; notes/assumptions/12.md). -/
opaque timerAdvance : List Event → Nat

/-- Within how many readings a wait that begins now is sure to see its deadline pass (60_exceptions.md R190;
notes/assumptions/12.md). -/
opaque timerPatience : List Event → Nat

/-- What a reference TAP's ISC_READ captures at a read index that no programmed word has (60_exceptions.md R194 is silent;
notes/assumptions/16.md). -/
opaque unprogrammedWord : Nat → BitVec 32

/-- `KEY` after a PORT_INIT, which the spec leaves unspecified (70_reset_and_hazards.md R198; notes/assumptions/4.md). -/
opaque keyAfterInit : List Event → Vector Byte 32

/-- `KEY_CRC` after a PORT_INIT (70_reset_and_hazards.md R198; notes/assumptions/4.md). -/
opaque keyCrcAfterInit : List Event → BitVec 32

end Config

end Sys2Proof
end

