-- ==== Sys2Proof/Machine/State.lean ====
section
/-! DEFINITION. The state of the block as plain data (10_state.md), the state of the external agents its rules read (10_state.md
section 9, 60_exceptions.md section 8), the ways a step can stop, and the state after reset (70_reset_and_hazards.md R198). -/

namespace Sys2Proof.Machine

open Sys2Proof

/-! ## The block's registers -/

/-- The Port registers (10_state.md R27). `family = none` is `NONE`. -/
structure Port where
  init : Bool
  cur : TapState
  irPre : BitVec 16
  irPost : BitVec 16
  drPre : BitVec 16
  drPost : BitVec 16
  irLen : BitVec 8
  segments : BitVec 8
  masterSeg : BitVec 8
  family : Option Family
  target : BitVec 8
  pinmap : PinMap
  deriving DecidableEq, Repr

/-- The four output pin latches (10_state.md R29, R30). -/
structure Pins where
  tms : Bool
  tck : Bool
  tdi : Bool
  hwmStart : Bool
  deriving DecidableEq, Repr

/-- `kind` of a chain node (10_state.md R31). -/
inductive NodeKind where
  | idcode | bypass
  deriving DecidableEq, Repr

/-- A node of `CHAIN` (10_state.md R31). -/
structure Node where
  kind : NodeKind
  idcode : BitVec 32
  irLength : BitVec 8
  ordinal : BitVec 8
  active : Bool
  deriving DecidableEq, Repr

/-- An entry of `IDLIST` (10_state.md R44). -/
inductive IdEntry where
  | idCode (v : BitVec 32)
  | bypass
  deriving DecidableEq, Repr

/-- A buffer of a pool: `size` bytes, held as the list of its bytes that are not 0 (10_state.md R35: a new buffer is
zero-filled), offsets strictly rising (notes/assumptions/19.md). -/
structure Memory where
  size : Nat
  cells : List Host.Cell
  deriving DecidableEq, Repr

/-- A sequence record (10_state.md R33); `valid` is presence in `SEQS` (notes/assumptions/18.md). -/
structure Seq where
  node : BitVec 8
  cmds : List Word64
  pool : List Memory
  consumed : Bool
  deriving DecidableEq, Repr

/-- The empty sequence record, `PSEQ` after reset (10_state.md R36). R36 gives `PSEQ` no node and no consumed bit of its own:
they are 0 here, and stay 0 (DESIGN CHOICE, notes/assumptions/22.md). -/
def Seq.empty : Seq := { node := 0#8, cmds := [], pool := [], consumed := false }

/-- The executor registers `EXEC.SEQ`, `EXEC.PC`, `EXEC.NEED_NAV` (10_state.md R37). -/
structure Exec where
  seq : Option Nat
  pc : Nat
  needNav : Bool
  deriving DecidableEq, Repr

/-- `KEY`, `KEY_CRC`, `KEY_CRC_VALID`, `KEY_LOADED` (10_state.md R41, R42). -/
structure KeyRegs where
  bytes : Vector Byte 32
  crc : BitVec 32
  crcValid : Bool
  loaded : Bool
  deriving DecidableEq, Repr

/-- `READKEY` and `READKEY_STATUS` (10_state.md R43). -/
structure Readback where
  words : Vector (BitVec 32) 8
  status : Vector (BitVec 5) 8
  deriving DecidableEq, Repr

/-- The fault reasons (60_exceptions.md R176). -/
inductive FaultReason where
  | notInitialised | unknownOp | badHandle | sequenceConsumed | badCommand | notInShiftState | notStable
  | shiftTooLong | badFlags | resourceExhausted | badBufferAccess | badArgument | keyNotLoaded | valueTooWide
  deriving DecidableEq, Repr

/-- What the last host operation returned beside `RESULT` (10_state.md R45, 30_encoding.md R77). -/
inductive Returned where
  | nothing
  | shiftOut (tdo : Option (List Byte)) (needNav : Bool)
  | handle (q : Nat)
  | bufHandles (tdi tdo : Option Nat)
  | bytes (bs : List Byte)
  | idList (l : List IdEntry)
  | identity (r : Option DeviceRow)
  | rowData (v : BitVec 32)
  | readback (words : Vector (BitVec 32) 8) (status : Vector (BitVec 5) 8)
  deriving DecidableEq, Repr

/-! ## The external agents (not state of the block) -/

/-- What a reference TAP's instruction latch selects (60_exceptions.md R191). -/
inductive TapInstr where
  | idcode | bypass
  | code (v : Nat)
  deriving DecidableEq, Repr

/-- A data register of a reference TAP, other than BYPASS and IDCODE: those of 60_exceptions.md R194, and the test-only
`FUSE_CTS` register of 95_test_vectors.md section 6. `plain` captures 0 and ignores updates (R194 `ISC_PROGRAM_KEY`). -/
inductive DataReg where
  | plain (len : Nat)
  | iscEnable (len : Nat)
  | iscProgram
  | iscRead
  | fuseCts
  deriving DecidableEq, Repr

/-- A reference target TAP (60_exceptions.md R191, R194). `irs` and `dr` are the shift stages, bit 0 first. Parameters that R191 leaves
to the TAP (notes/assumptions/16.md): `idInstr`, the instruction code that selects IDCODE, if there is one; `irCaptureHigh`, the
device-specific bits of `IR_CAPTURE` above bits 1:0; and `id`, whose bit 0 R191 has at 1 and which the model does not check. -/
structure Tap where
  ts : TapState
  irLen : Nat
  ir : TapInstr
  irs : List Bool
  dr : List Bool
  id : Option (BitVec 32)
  idInstr : Option Nat
  irCaptureHigh : Nat
  regs : List (Nat × DataReg)
  programmed : List (BitVec 32)
  readIndex : Nat
  readMask : Option (Nat × BitVec 32)
  readStatus : BitVec 5
  latched : BitVec 64
  fuses : List (Nat × BitVec 32)
  deriving DecidableEq, Repr

/-- The reference fuse-blow module (60_exceptions.md R195); `none` for a time is a module that never answers. -/
structure Hwm where
  tReady : Option Nat
  tEnd : Option Nat
  startedAt : Option Nat
  readySeen : Bool
  releasedAt : Option Nat
  deriving DecidableEq, Repr

/-- The reference models: the TDO side is the loopback driver (`chain = none`, R193) or a chain of TAPs (R192), `tdo` the level
TAP 0 drives; the timer advances by `usPerRead` at each reading. -/
structure Bench where
  chain : Option (List Tap)
  tdo : Bool
  hwm : Hwm
  usPerRead : Nat
  deriving DecidableEq, Repr

/-- The environment: the timer's present value in microseconds, and either free agents (`bench = none`, notes/assumptions/11.md
and 12.md) or the reference models (notes/assumptions/16.md). -/
structure Env where
  now : Nat
  bench : Option Bench
  deriving DecidableEq, Repr

/-! ## The state -/

/-- The whole state: the block's registers, then the model's own fields `returned` (notes/assumptions/10.md), `hostQueue` (host
records issued and not begun, notes/assumptions/2.md), `trace` (newest event first, 20_memory.md R62) and `env`. -/
structure State where
  port : Port
  pins : Pins
  chain : List Node
  idList : List IdEntry
  seqs : List (Nat × Seq)
  pseq : Seq
  exec : Exec
  key : KeyRegs
  readback : Readback
  result : BitVec 32
  fault : Option FaultReason
  returned : Returned
  hostQueue : List (List Byte)
  trace : List Event
  env : Env
  deriving DecidableEq, Repr

/-! ## How a step can stop -/

/-- Stops of the machine. The block's own faults (60_exceptions.md R176) are not here: they are next states with `fault` set. -/
inductive Fault where
  /-- Raised by `step` alone, when `EXEC.SEQ` names no live sequence: no rule says what the executor then does, and no run
  reaches it. Safe. -/
  | lostSequence
  deriving DecidableEq, Repr

/-- Refusals of the machine. -/
inductive Refusal where
  /-- Raised by an arm of `exec` whose instruction has no meaning yet (no arm does). Safe. -/
  | notModelled (mnemonic : String)
  deriving DecidableEq, Repr

/-! ## Reset -/

/-- The Port after reset (70_reset_and_hazards.md R198); the pin map, "the `PORT_INIT` argument", is lines 0 to 6
(notes/assumptions/3.md). -/
def Port.reset : Port where
  init := true
  cur := .reset
  irPre := 0#16
  irPost := 0#16
  drPre := 0#16
  drPost := 0#16
  irLen := 0#8
  segments := 0#8
  masterSeg := 0#8
  family := none
  target := 0xFF#8
  pinmap := { tms := 0, tck := 1, tdi := 2, tdo := 3, hwmStart := 4, hwmReady := 5, hwmEnd := 6 }

/-- The state right after reset: every register as 70_reset_and_hazards.md R198 lists it, `KEY` and `KEY_CRC`, which R198 leaves
unspecified, zero (DESIGN CHOICE, notes/assumptions/4.md). -/
def State.reset : State where
  port := Port.reset
  pins := { tms := true, tck := false, tdi := false, hwmStart := false }
  chain := []
  idList := []
  seqs := []
  pseq := Seq.empty
  exec := { seq := none, pc := 0, needNav := false }
  key := { bytes := Vector.replicate 32 0#8, crc := 0#32, crcValid := false, loaded := false }
  readback := { words := Vector.replicate 8 0#32, status := Vector.replicate 8 0#5 }
  result := 0#32
  fault := none
  returned := .nothing
  hostQueue := []
  trace := []
  env := { now := 0, bench := none }

/-! ## Updates of one field, each with its lemmas in Sys2Proof/Laws/State.lean -/

def State.withPort (s : State) (v : Port) : State := { s with port := v }
def State.withPins (s : State) (v : Pins) : State := { s with pins := v }
def State.withChain (s : State) (v : List Node) : State := { s with chain := v }
def State.withIdList (s : State) (v : List IdEntry) : State := { s with idList := v }
def State.withSeqs (s : State) (v : List (Nat × Seq)) : State := { s with seqs := v }
def State.withPseq (s : State) (v : Seq) : State := { s with pseq := v }
def State.withExec (s : State) (v : Exec) : State := { s with exec := v }
def State.withKey (s : State) (v : KeyRegs) : State := { s with key := v }
def State.withReadback (s : State) (v : Readback) : State := { s with readback := v }
def State.withResult (s : State) (v : BitVec 32) : State := { s with result := v }
def State.withFault (s : State) (v : Option FaultReason) : State := { s with fault := v }
def State.withReturned (s : State) (v : Returned) : State := { s with returned := v }
def State.withHostQueue (s : State) (v : List (List Byte)) : State := { s with hostQueue := v }
def State.withTrace (s : State) (v : List Event) : State := { s with trace := v }
def State.withEnv (s : State) (v : Env) : State := { s with env := v }
def Port.withCur (p : Port) (c : TapState) : Port := { p with cur := c }

end Sys2Proof.Machine
end

