-- ==== Sys2Proof/WellFormed.lean ====
section
/-! DEFINITION. When an instruction is well formed: the static part of 30_encoding.md R75 for command words, and for host
operations that every operand fits the host record that carries it (notes/assumptions/5.md). -/

namespace Sys2Proof

/-- `Stable(s)` (10_state.md R23): the four states that may hold idle clocks. -/
def TapState.stable : TapState → Bool
  | .reset | .idle | .pauseDR | .pauseIR => true
  | _ => false

/-- A number that fits the 64-bit operand of a host record (notes/assumptions/5.md). -/
def fitsOperand (v : Nat) : Bool := decide (v < 2 ^ 64)

/-- A buffer handle fits its 16-bit field (30_encoding.md R72 `T`). -/
def TdiSource.fits : TdiSource → Bool
  | .buf h => decide (h < 2 ^ 16)
  | .fill _ => true

/-- A TDO handle fits its 16-bit field (30_encoding.md R72 `Q`). -/
def tdoFits : Option Nat → Bool
  | some h => decide (h < 2 ^ 16)
  | none => true

/-- 30_encoding.md R72 and R75 (c): `N` is 1 to `2^23 - 1`, and the handles fit. -/
def shiftWellFormed (n : Nat) (tdi : TdiSource) (tdo : Option Nat) : Bool :=
  decide (1 ≤ n) && decide (n < 2 ^ 23) && tdi.fits && tdoFits tdo

/-- Operand bytes of SHIFT fit the record. -/
def TdiMode.fits : TdiMode → Bool
  | .buf bytes => fitsOperand bytes.length
  | .zeros => true
  | .ones => true

/-- All seven line numbers fit the record. -/
def PinMap.fits (m : PinMap) : Bool :=
  fitsOperand m.tms && fitsOperand m.tck && fitsOperand m.tdi && fitsOperand m.tdo &&
    fitsOperand m.hwmStart && fitsOperand m.hwmReady && fitsOperand m.hwmEnd

/-- The check of an instruction. For a command it is 30_encoding.md R75 (b), (c) and the field widths of R71, R72 ((a) and (d)
have no well-typed violation; (e) needs the sequence and is checked where the command runs). -/
def Instr.wellFormed : Instr → Bool
  | .setState st idle => decide (idle < 2 ^ 32) && (decide (idle = 0) || st.stable)
  | .shiftDr n tdi tdo _ => shiftWellFormed n tdi tdo
  | .shiftIr n tdi tdo _ => shiftWellFormed n tdi tdo
  | .portInit m => m.fits
  | .navigate _ => true
  | .pulse count => fitsOperand count
  | .shift _ n tdi _ _ => fitsOperand n && tdi.fits
  | .seqCreate node => fitsOperand node
  | .seqAddState q _ idle => fitsOperand q && fitsOperand idle
  | .seqAddShift q flags n _ _ _ => fitsOperand q && fitsOperand flags && fitsOperand n
  | .seqClear q => fitsOperand q
  | .seqDelete q => fitsOperand q
  | .bufWrite q h o bytes => fitsOperand q && fitsOperand h && fitsOperand o && fitsOperand bytes.length
  | .bufRead q h o n => fitsOperand q && fitsOperand h && fitsOperand o && fitsOperand n
  | .seqRun q => fitsOperand q
  | .detectTaps => true
  | .identify v => fitsOperand v
  | .setPads a b c d => fitsOperand a && fitsOperand b && fitsOperand c && fitsOperand d
  | .selectTarget t => fitsOperand t
  | .jprogram => true
  | .efuseProgramRow row bit page _ => fitsOperand row && fitsOperand bit && fitsOperand page
  | .efuseReadRow row page _ => fitsOperand row && fitsOperand page
  | .keyLoad bytes _ crc => fitsOperand bytes.length && fitsOperand crc
  | .bbramProgram => true
  | .bbramVerify => true
  | .keyReadback => true

end Sys2Proof
end

