-- ==== Sys2Proof/Decode.lean ====
section
/-! DEFINITION. Bit and byte order (20_memory.md R52, R53), the decoder of command words (30_encoding.md R70 to R75) and of host
records (R77, notes/assumptions/5.md), and after it the encoder, written from the same tables. -/

namespace Sys2Proof

/-! ## Bit and byte order -/

/-- The low `n` bits of `v`, bit 0 first: the stream of a value (20_memory.md R53). -/
def natBits (n v : Nat) : List Bool := (List.range n).map fun i => v.testBit i

/-- The value of a bit stream whose bit 0 comes first (20_memory.md R53). -/
def bitsNat : List Bool → Nat
  | [] => 0
  | b :: bs => b.toNat + 2 * bitsNat bs

/-- The low `n` bytes of `v`, byte j holding bits 8j+7 to 8j (20_memory.md R53). -/
def natBytes : Nat → Nat → List Byte
  | 0, _ => []
  | n + 1, v => BitVec.ofNat 8 v :: natBytes n (v / 256)

/-- The value of little-endian bytes. -/
def bytesNat : List Byte → Nat
  | [] => 0
  | b :: bs => b.toNat + 256 * bytesNat bs

/-- Stream bits 0 to n−1 of a byte string: bit i is bit `i mod 8` of byte `i div 8` (20_memory.md R52). -/
def bytesBits (n : Nat) (bs : List Byte) : List Bool :=
  (List.range n).map fun i => (bs.getD (i / 8) 0#8).getLsbD (i % 8)

/-- The bytes of a bit stream, `ceil(n/8)` of them, unused high bits 0 (41_shift_engine.md R106). -/
def bitsBytes (bits : List Bool) : List Byte := natBytes (bytesFor bits.length) (bitsNat bits)

/-! ## State codes and field codes -/

/-- The 4-bit code of a TAP state (10_state.md R22). -/
def TapState.code : TapState → BitVec 4
  | .reset => 0x0#4 | .idle => 0x1#4 | .selectDR => 0x2#4 | .captureDR => 0x3#4
  | .shiftDR => 0x4#4 | .exit1DR => 0x5#4 | .pauseDR => 0x6#4 | .exit2DR => 0x7#4
  | .updateDR => 0x8#4 | .selectIR => 0x9#4 | .captureIR => 0xA#4 | .shiftIR => 0xB#4
  | .exit1IR => 0xC#4 | .pauseIR => 0xD#4 | .exit2IR => 0xE#4 | .updateIR => 0xF#4

/-- The state of a 4-bit code; all 16 values are states (30_encoding.md R73). -/
def tapStateOf (c : BitVec 4) : TapState :=
  match c.toNat with
  | 0x0 => .reset | 0x1 => .idle | 0x2 => .selectDR | 0x3 => .captureDR
  | 0x4 => .shiftDR | 0x5 => .exit1DR | 0x6 => .pauseDR | 0x7 => .exit2DR
  | 0x8 => .updateDR | 0x9 => .selectIR | 0xA => .captureIR | 0xB => .shiftIR
  | 0xC => .exit1IR | 0xD => .pauseIR | 0xE => .exit2IR | _ => .updateIR

/-- The `D` bit (30_encoding.md R72): 0 = DR, 1 = IR. -/
def Dir.bit : Dir → Bool
  | .dr => false
  | .ir => true

/-- Why the decoder refuses. -/
inductive DecodeError where
  /-- A SETSTATE word with a reserved bit set (30_encoding.md R75 (a)). -/
  | reservedBits
  /-- A SHIFT word with a value in a field that `I` or `O` says is absent (30_encoding.md R75 (d)). -/
  | strayField
  /-- A host record whose opcode is not in the table (30_encoding.md R77); `none` is a record with no opcode byte. -/
  | unknownOp (op : Option Byte)
  /-- A host record that ends before its arguments do (notes/assumptions/6.md). -/
  | truncated (op : Byte)
  /-- A one-byte argument above the range of its field (notes/assumptions/6.md). -/
  | operandTooWide (op : Byte)
  deriving DecidableEq, Repr

/-! ## Command words -/

/-- A SETSTATE word (30_encoding.md R71). -/
def decodeSetState (w : Word64) : Except DecodeError Instr :=
  if w.extractLsb' 5 3 = 0#3 ∧ w.extractLsb' 40 24 = 0#24 then
    .ok (.setState (tapStateOf (w.extractLsb' 1 4)) (w.extractLsb' 8 32).toNat)
  else .error .reservedBits

/-- A SHIFT word (30_encoding.md R72, R73); R75 (d) is refused here, (c) by `Instr.wellFormed`. -/
def decodeShift (w : Word64) : Except DecodeError Instr :=
  let i := w.getLsbD 2
  let o := w.getLsbD 3
  let f := w.getLsbD 4
  let exit := tapStateOf (w.extractLsb' 5 4)
  let n := (w.extractLsb' 9 23).toNat
  let t := w.extractLsb' 32 16
  let q := w.extractLsb' 48 16
  if (i = false → t = 0#16) ∧ (o = false → q = 0#16) ∧ (i = true → f = false) then
    let tdi := if i then TdiSource.buf t.toNat else TdiSource.fill f
    let tdo := if o then some q.toNat else none
    if w.getLsbD 1 then .ok (.shiftIr n tdi tdo exit) else .ok (.shiftDr n tdi tdo exit)
  else .error .strayField

/-- A command word; bit 0 alone selects the format (30_encoding.md R70, R87). -/
def decodeCommand (w : Word64) : Except DecodeError Instr :=
  if w.getLsbD 0 then decodeShift w else decodeSetState w

/-! ## Host records: the opcode byte, then the arguments in the order of 30_encoding.md R77 (notes/assumptions/5.md) -/

/-- A number: 8 bytes, little-endian. -/
def takeNum (op : Byte) (bs : List Byte) : Except DecodeError (Nat × List Byte) :=
  if bs.length < 8 then .error (.truncated op) else .ok (bytesNat (bs.take 8), bs.drop 8)

/-- A value of a field of at most 8 bits: one byte, below `limit`. -/
def takeSmall (op : Byte) (limit : Nat) (bs : List Byte) : Except DecodeError (Nat × List Byte) :=
  match bs with
  | [] => .error (.truncated op)
  | b :: rest => if b.toNat < limit then .ok (b.toNat, rest) else .error (.operandTooWide op)

/-- A byte string: its length as a number, then its bytes. -/
def takeBytes (op : Byte) (bs : List Byte) : Except DecodeError (List Byte × List Byte) := do
  let (n, rest) ← takeNum op bs
  if rest.length < n then .error (.truncated op) else .ok (rest.take n, rest.drop n)

/-- A TAP state: one byte, its code. -/
def takeState (op : Byte) (bs : List Byte) : Except DecodeError (TapState × List Byte) := do
  let (c, rest) ← takeSmall op 16 bs
  .ok (tapStateOf (BitVec.ofNat 4 c), rest)

/-- A one-bit argument: one byte. -/
def takeBit (op : Byte) (bs : List Byte) : Except DecodeError (Bool × List Byte) := do
  let (c, rest) ← takeSmall op 2 bs
  .ok (c == 1, rest)

/-- `tdi_mode`, one byte (0 BUF, 1 ZEROS, 2 ONES), then the bytes when BUF. -/
def takeTdiMode (op : Byte) (bs : List Byte) : Except DecodeError (TdiMode × List Byte) := do
  let (c, rest) ← takeSmall op 3 bs
  if c = 0 then
    let (v, rest) ← takeBytes op rest
    .ok (.buf v, rest)
  else if c = 1 then .ok (.zeros, rest) else .ok (.ones, rest)

/-- Four numbers. -/
def takeFour (op : Byte) (bs : List Byte) : Except DecodeError ((Nat × Nat × Nat × Nat) × List Byte) := do
  let (a, bs) ← takeNum op bs
  let (b, bs) ← takeNum op bs
  let (c, bs) ← takeNum op bs
  let (d, bs) ← takeNum op bs
  .ok ((a, b, c, d), bs)

/-- The seven lines of a pin map, in the order of 10_state.md R27. -/
def takePinMap (op : Byte) (bs : List Byte) : Except DecodeError (PinMap × List Byte) := do
  let ((a, b, c, d), bs) ← takeFour op bs
  let (e, bs) ← takeNum op bs
  let (f, bs) ← takeNum op bs
  let (g, bs) ← takeNum op bs
  .ok ({ tms := a, tck := b, tdi := c, tdo := d, hwmStart := e, hwmReady := f, hwmEnd := g }, bs)

/-- The arguments of PORT_INIT, NAVIGATE, PULSE and SHIFT. -/
def decodePinOp (op : Byte) (bs : List Byte) : Except DecodeError (Instr × List Byte) :=
  match op.toNat with
  | 0x01 => do
    let (m, bs) ← takePinMap op bs
    .ok (.portInit m, bs)
  | 0x02 => do
    let (st, bs) ← takeState op bs
    .ok (.navigate st, bs)
  | 0x03 => do
    let (n, bs) ← takeNum op bs
    .ok (.pulse n, bs)
  | 0x04 => do
    let (d, bs) ← takeBit op bs
    let (n, bs) ← takeNum op bs
    let (m, bs) ← takeTdiMode op bs
    let (c, bs) ← takeBit op bs
    let (st, bs) ← takeState op bs
    .ok (.shift (if d then .ir else .dr) n m c st, bs)
  | _ => .error (.unknownOp (some op))

/-- The arguments of the builder operations and SEQ_RUN. -/
def decodeSeqOp (op : Byte) (bs : List Byte) : Except DecodeError (Instr × List Byte) :=
  match op.toNat with
  | 0x10 => do
    let (n, bs) ← takeNum op bs
    .ok (.seqCreate n, bs)
  | 0x11 => do
    let (q, bs) ← takeNum op bs
    let (st, bs) ← takeState op bs
    let (i, bs) ← takeNum op bs
    .ok (.seqAddState q st i, bs)
  | 0x12 => do
    let (q, bs) ← takeNum op bs
    let (f, bs) ← takeNum op bs
    let (n, bs) ← takeNum op bs
    let (wi, bs) ← takeBit op bs
    let (wo, bs) ← takeBit op bs
    let (st, bs) ← takeState op bs
    .ok (.seqAddShift q f n wi wo st, bs)
  | 0x13 => do
    let (q, bs) ← takeNum op bs
    .ok (.seqClear q, bs)
  | 0x14 => do
    let (q, bs) ← takeNum op bs
    .ok (.seqDelete q, bs)
  | 0x15 => do
    let (q, bs) ← takeNum op bs
    let (h, bs) ← takeNum op bs
    let (o, bs) ← takeNum op bs
    let (v, bs) ← takeBytes op bs
    .ok (.bufWrite q h o v, bs)
  | 0x16 => do
    let ((q, h, o, n), bs) ← takeFour op bs
    .ok (.bufRead q h o n, bs)
  | 0x17 => do
    let (q, bs) ← takeNum op bs
    .ok (.seqRun q, bs)
  | _ => .error (.unknownOp (some op))

/-- The arguments of the chain and protocol operations. -/
def decodeProtocolOp (op : Byte) (bs : List Byte) : Except DecodeError (Instr × List Byte) :=
  match op.toNat with
  | 0x20 => .ok (.detectTaps, bs)
  | 0x21 => do
    let (v, bs) ← takeNum op bs
    .ok (.identify v, bs)
  | 0x22 => do
    let ((a, b, c, d), bs) ← takeFour op bs
    .ok (.setPads a b c d, bs)
  | 0x23 => do
    let (t, bs) ← takeNum op bs
    .ok (.selectTarget t, bs)
  | 0x30 => .ok (.jprogram, bs)
  | 0x31 => do
    let (r, bs) ← takeNum op bs
    let (b, bs) ← takeNum op bs
    let (p, bs) ← takeNum op bs
    let (d, bs) ← takeBit op bs
    .ok (.efuseProgramRow r b p d, bs)
  | 0x32 => do
    let (r, bs) ← takeNum op bs
    let (p, bs) ← takeNum op bs
    let (d, bs) ← takeBit op bs
    .ok (.efuseReadRow r p d, bs)
  | 0x40 => do
    let (k, bs) ← takeBytes op bs
    let (v, bs) ← takeBit op bs
    let (c, bs) ← takeNum op bs
    .ok (.keyLoad k v c, bs)
  | 0x41 => .ok (.bbramProgram, bs)
  | 0x42 => .ok (.bbramVerify, bs)
  | 0x43 => .ok (.keyReadback, bs)
  | _ => .error (.unknownOp (some op))

/-- A host record: the instruction and the bytes after it. -/
def decodeHostOp : List Byte → Except DecodeError (Instr × List Byte)
  | [] => .error (.unknownOp none)
  | op :: bs =>
    if op.toNat < 0x10 then decodePinOp op bs
    else if op.toNat < 0x20 then decodeSeqOp op bs
    else decodeProtocolOp op bs

/-! ## The encoder -/

/-- What carries an instruction: a command word of a sequence, or a host record. -/
inductive Encoded where
  | command (w : Word64)
  | hostOp (bytes : List Byte)
  deriving DecidableEq, Repr

/-- A SETSTATE word (30_encoding.md R71, 42_sequence_builder.md R111). -/
def encodeSetState (st : TapState) (idle : Nat) : Word64 :=
  0#24 ++ BitVec.ofNat 32 idle ++ 0#3 ++ st.code ++ 0#1

/-- Bits 1 to 4 and the handles of a SHIFT word. -/
def TdiSource.handleBits : TdiSource → BitVec 16
  | .buf h => BitVec.ofNat 16 h
  | .fill _ => 0#16

/-- The `I` bit. -/
def TdiSource.present : TdiSource → Bool
  | .buf _ => true
  | .fill _ => false

/-- The `F` bit. -/
def TdiSource.fillBit : TdiSource → Bool
  | .buf _ => false
  | .fill ones => ones

/-- A SHIFT word (30_encoding.md R72, 42_sequence_builder.md R112). -/
def encodeShift (dir : Dir) (n : Nat) (tdi : TdiSource) (tdo : Option Nat) (exit : TapState) : Word64 :=
  BitVec.ofNat 16 (tdo.getD 0) ++ tdi.handleBits ++ BitVec.ofNat 23 n ++ exit.code ++
    BitVec.ofBool tdi.fillBit ++ BitVec.ofBool tdo.isSome ++ BitVec.ofBool tdi.present ++ BitVec.ofBool dir.bit ++ 1#1

/-- A number of a host record. -/
def putNum (v : Nat) : List Byte := natBytes 8 v

/-- A one-bit argument of a host record. -/
def putBit (b : Bool) : List Byte := [BitVec.ofNat 8 b.toNat]

/-- A TAP state of a host record. -/
def putState (st : TapState) : List Byte := [st.code.setWidth 8]

/-- A byte string of a host record. -/
def putBytes (bs : List Byte) : List Byte := putNum bs.length ++ bs

/-- `tdi_mode` and `tdi_bytes` of a host record. -/
def putTdiMode : TdiMode → List Byte
  | .buf bs => 0#8 :: putBytes bs
  | .zeros => [1#8]
  | .ones => [2#8]

/-- The lines of a pin map. -/
def putPinMap (m : PinMap) : List Byte :=
  putNum m.tms ++ putNum m.tck ++ putNum m.tdi ++ putNum m.tdo ++ putNum m.hwmStart ++ putNum m.hwmReady ++ putNum m.hwmEnd

/-- The word or record of an instruction. -/
def encode : Instr → Encoded
  | .setState st idle => .command (encodeSetState st idle)
  | .shiftDr n tdi tdo exit => .command (encodeShift .dr n tdi tdo exit)
  | .shiftIr n tdi tdo exit => .command (encodeShift .ir n tdi tdo exit)
  | .portInit m => .hostOp (0x01#8 :: putPinMap m)
  | .navigate st => .hostOp (0x02#8 :: putState st)
  | .pulse n => .hostOp (0x03#8 :: putNum n)
  | .shift d n m c st => .hostOp (0x04#8 :: (putBit d.bit ++ putNum n ++ putTdiMode m ++ putBit c ++ putState st))
  | .seqCreate n => .hostOp (0x10#8 :: putNum n)
  | .seqAddState q st i => .hostOp (0x11#8 :: (putNum q ++ putState st ++ putNum i))
  | .seqAddShift q f n wi wo st => .hostOp (0x12#8 :: (putNum q ++ putNum f ++ putNum n ++ putBit wi ++ putBit wo ++ putState st))
  | .seqClear q => .hostOp (0x13#8 :: putNum q)
  | .seqDelete q => .hostOp (0x14#8 :: putNum q)
  | .bufWrite q h o v => .hostOp (0x15#8 :: (putNum q ++ putNum h ++ putNum o ++ putBytes v))
  | .bufRead q h o n => .hostOp (0x16#8 :: (putNum q ++ putNum h ++ putNum o ++ putNum n))
  | .seqRun q => .hostOp (0x17#8 :: putNum q)
  | .detectTaps => .hostOp [0x20#8]
  | .identify v => .hostOp (0x21#8 :: putNum v)
  | .setPads a b c d => .hostOp (0x22#8 :: (putNum a ++ putNum b ++ putNum c ++ putNum d))
  | .selectTarget t => .hostOp (0x23#8 :: putNum t)
  | .jprogram => .hostOp [0x30#8]
  | .efuseProgramRow r b p d => .hostOp (0x31#8 :: (putNum r ++ putNum b ++ putNum p ++ putBit d))
  | .efuseReadRow r p d => .hostOp (0x32#8 :: (putNum r ++ putNum p ++ putBit d))
  | .keyLoad k v c => .hostOp (0x40#8 :: (putBytes k ++ putBit v ++ putNum c))
  | .bbramProgram => .hostOp [0x41#8]
  | .bbramVerify => .hostOp [0x42#8]
  | .keyReadback => .hostOp [0x43#8]

/-- The instruction of a word or a record. -/
def decode : Encoded → Except DecodeError Instr
  | .command w => decodeCommand w
  | .hostOp bs =>
    match decodeHostOp bs with
    | .ok (i, _) => .ok i
    | .error e => .error e

/-! ## A word as the opcode table numbers it -/

/-- How many zero bytes stand after the opcode byte of a table row's record: enough for the longest arguments of zeros
(PORT_INIT, 56 bytes). -/
def zeroArgumentBytes : Nat := 56

/-- A table row's host record: its opcode byte and argument bytes of zeros. -/
def tableRecord (w : Nat) : List Byte := BitVec.ofNat 8 w :: List.replicate zeroArgumentBytes 0#8

/-- A row of at most 8 bits is a host opcode, any longer one a command word. -/
def tableEncoded (nbits w : Nat) : Encoded :=
  if nbits ≤ 8 then .hostOp (tableRecord w) else .command (BitVec.ofNat 64 w)

/-- The instruction the decoder reads from a table row's word. -/
def decodeTableWord (nbits w : Nat) : Option Instr :=
  match decode (tableEncoded nbits w) with
  | .ok i => some i
  | .error _ => none

end Sys2Proof
end

