-- ==== Sys2Proof/Machine/TapTable.lean ====
section
/-! DEFINITION. The TAP state diagram (10_state.md R23 to R26) and the compiled-in navigation table (30_encoding.md R78, R79). -/

namespace Sys2Proof

/-- `Next(s, tms)` (10_state.md R24). -/
def TapState.next : TapState → Bool → TapState
  | .reset, false => .idle | .reset, true => .reset
  | .idle, false => .idle | .idle, true => .selectDR
  | .selectDR, false => .captureDR | .selectDR, true => .selectIR
  | .captureDR, false => .shiftDR | .captureDR, true => .exit1DR
  | .shiftDR, false => .shiftDR | .shiftDR, true => .exit1DR
  | .exit1DR, false => .pauseDR | .exit1DR, true => .updateDR
  | .pauseDR, false => .pauseDR | .pauseDR, true => .exit2DR
  | .exit2DR, false => .shiftDR | .exit2DR, true => .updateDR
  | .updateDR, false => .idle | .updateDR, true => .selectDR
  | .selectIR, false => .captureIR | .selectIR, true => .reset
  | .captureIR, false => .shiftIR | .captureIR, true => .exit1IR
  | .shiftIR, false => .shiftIR | .shiftIR, true => .exit1IR
  | .exit1IR, false => .pauseIR | .exit1IR, true => .updateIR
  | .pauseIR, false => .pauseIR | .pauseIR, true => .exit2IR
  | .exit2IR, false => .shiftIR | .exit2IR, true => .updateIR
  | .updateIR, false => .idle | .updateIR, true => .selectDR

/-- `HoldTMS(s)` (10_state.md R25). For a state that is not stable R25 leaves it undefined: it is 0 here (DESIGN CHOICE,
notes/assumptions/30.md), and no clock takes that value. -/
def TapState.holdTms : TapState → Bool
  | .reset => true
  | _ => false

/-- `ShiftState(dir)` (10_state.md R26). -/
def Dir.shiftState : Dir → TapState
  | .dr => .shiftDR
  | .ir => .shiftIR

/-- `Exit1State(dir)` (10_state.md R26). -/
def Dir.exit1State : Dir → TapState
  | .dr => .exit1DR
  | .ir => .exit1IR

/-- An entry of `NAV_TABLE` (10_state.md R39): bit i of the pattern is the TMS of clock i. -/
structure NavEntry where
  count : Nat
  pattern : BitVec 8
  deriving DecidableEq, Repr

/-- The walk of an entry: the first `count` bits of `pattern`, bit 0 first. -/
def NavEntry.walk (e : NavEntry) : List Bool := natBits e.count e.pattern.toNat

/-! The rows of the table, one per source state, columns in the order of the state codes (30_encoding.md R79). -/

def navReset : List NavEntry :=
  [⟨5, 0x1F#8⟩, ⟨1, 0x00#8⟩, ⟨2, 0x02#8⟩, ⟨3, 0x02#8⟩, ⟨4, 0x02#8⟩, ⟨4, 0x0A#8⟩, ⟨5, 0x0A#8⟩, ⟨6, 0x2A#8⟩,
   ⟨5, 0x1A#8⟩, ⟨3, 0x06#8⟩, ⟨4, 0x06#8⟩, ⟨5, 0x06#8⟩, ⟨5, 0x16#8⟩, ⟨6, 0x16#8⟩, ⟨7, 0x56#8⟩, ⟨6, 0x36#8⟩]

def navIdle : List NavEntry :=
  [⟨5, 0x1F#8⟩, ⟨0, 0x00#8⟩, ⟨1, 0x01#8⟩, ⟨2, 0x01#8⟩, ⟨3, 0x01#8⟩, ⟨3, 0x05#8⟩, ⟨4, 0x05#8⟩, ⟨5, 0x15#8⟩,
   ⟨4, 0x0D#8⟩, ⟨2, 0x03#8⟩, ⟨3, 0x03#8⟩, ⟨4, 0x03#8⟩, ⟨4, 0x0B#8⟩, ⟨5, 0x0B#8⟩, ⟨6, 0x2B#8⟩, ⟨5, 0x1B#8⟩]

def navSelectDR : List NavEntry :=
  [⟨5, 0x1F#8⟩, ⟨4, 0x06#8⟩, ⟨0, 0x00#8⟩, ⟨1, 0x00#8⟩, ⟨2, 0x00#8⟩, ⟨2, 0x02#8⟩, ⟨3, 0x02#8⟩, ⟨4, 0x0A#8⟩,
   ⟨3, 0x06#8⟩, ⟨1, 0x01#8⟩, ⟨2, 0x01#8⟩, ⟨3, 0x01#8⟩, ⟨3, 0x05#8⟩, ⟨4, 0x05#8⟩, ⟨5, 0x15#8⟩, ⟨4, 0x0D#8⟩]

def navCaptureDR : List NavEntry :=
  [⟨5, 0x1F#8⟩, ⟨3, 0x03#8⟩, ⟨3, 0x07#8⟩, ⟨0, 0x00#8⟩, ⟨1, 0x00#8⟩, ⟨1, 0x01#8⟩, ⟨2, 0x01#8⟩, ⟨3, 0x05#8⟩,
   ⟨2, 0x03#8⟩, ⟨4, 0x0F#8⟩, ⟨5, 0x0F#8⟩, ⟨6, 0x0F#8⟩, ⟨6, 0x2F#8⟩, ⟨7, 0x2F#8⟩, ⟨8, 0xAF#8⟩, ⟨7, 0x6F#8⟩]

def navShiftDR : List NavEntry :=
  [⟨5, 0x1F#8⟩, ⟨3, 0x03#8⟩, ⟨3, 0x07#8⟩, ⟨4, 0x07#8⟩, ⟨0, 0x00#8⟩, ⟨1, 0x01#8⟩, ⟨2, 0x01#8⟩, ⟨3, 0x05#8⟩,
   ⟨2, 0x03#8⟩, ⟨4, 0x0F#8⟩, ⟨5, 0x0F#8⟩, ⟨6, 0x0F#8⟩, ⟨6, 0x2F#8⟩, ⟨7, 0x2F#8⟩, ⟨8, 0xAF#8⟩, ⟨7, 0x6F#8⟩]

def navExit1DR : List NavEntry :=
  [⟨5, 0x1F#8⟩, ⟨2, 0x01#8⟩, ⟨2, 0x03#8⟩, ⟨3, 0x03#8⟩, ⟨3, 0x02#8⟩, ⟨0, 0x00#8⟩, ⟨1, 0x00#8⟩, ⟨2, 0x02#8⟩,
   ⟨1, 0x01#8⟩, ⟨3, 0x07#8⟩, ⟨4, 0x07#8⟩, ⟨5, 0x07#8⟩, ⟨5, 0x17#8⟩, ⟨6, 0x17#8⟩, ⟨7, 0x57#8⟩, ⟨6, 0x37#8⟩]

def navPauseDR : List NavEntry :=
  [⟨5, 0x1F#8⟩, ⟨3, 0x03#8⟩, ⟨3, 0x07#8⟩, ⟨4, 0x07#8⟩, ⟨2, 0x01#8⟩, ⟨3, 0x05#8⟩, ⟨0, 0x00#8⟩, ⟨1, 0x01#8⟩,
   ⟨2, 0x03#8⟩, ⟨4, 0x0F#8⟩, ⟨5, 0x0F#8⟩, ⟨6, 0x0F#8⟩, ⟨6, 0x2F#8⟩, ⟨7, 0x2F#8⟩, ⟨8, 0xAF#8⟩, ⟨7, 0x6F#8⟩]

def navExit2DR : List NavEntry :=
  [⟨5, 0x1F#8⟩, ⟨2, 0x01#8⟩, ⟨2, 0x03#8⟩, ⟨3, 0x03#8⟩, ⟨1, 0x00#8⟩, ⟨2, 0x02#8⟩, ⟨3, 0x02#8⟩, ⟨0, 0x00#8⟩,
   ⟨1, 0x01#8⟩, ⟨3, 0x07#8⟩, ⟨4, 0x07#8⟩, ⟨5, 0x07#8⟩, ⟨5, 0x17#8⟩, ⟨6, 0x17#8⟩, ⟨7, 0x57#8⟩, ⟨6, 0x37#8⟩]

def navUpdateDR : List NavEntry :=
  [⟨5, 0x1F#8⟩, ⟨1, 0x00#8⟩, ⟨1, 0x01#8⟩, ⟨2, 0x01#8⟩, ⟨3, 0x01#8⟩, ⟨3, 0x05#8⟩, ⟨4, 0x05#8⟩, ⟨5, 0x15#8⟩,
   ⟨0, 0x00#8⟩, ⟨2, 0x03#8⟩, ⟨3, 0x03#8⟩, ⟨4, 0x03#8⟩, ⟨4, 0x0B#8⟩, ⟨5, 0x0B#8⟩, ⟨6, 0x2B#8⟩, ⟨5, 0x1B#8⟩]

def navSelectIR : List NavEntry :=
  [⟨5, 0x1F#8⟩, ⟨4, 0x06#8⟩, ⟨4, 0x0E#8⟩, ⟨5, 0x0E#8⟩, ⟨6, 0x0E#8⟩, ⟨6, 0x2E#8⟩, ⟨7, 0x2E#8⟩, ⟨8, 0xAE#8⟩,
   ⟨7, 0x6E#8⟩, ⟨0, 0x00#8⟩, ⟨1, 0x00#8⟩, ⟨2, 0x00#8⟩, ⟨2, 0x02#8⟩, ⟨3, 0x02#8⟩, ⟨4, 0x0A#8⟩, ⟨3, 0x06#8⟩]

def navCaptureIR : List NavEntry :=
  [⟨5, 0x1F#8⟩, ⟨3, 0x03#8⟩, ⟨3, 0x07#8⟩, ⟨4, 0x07#8⟩, ⟨5, 0x07#8⟩, ⟨5, 0x17#8⟩, ⟨6, 0x17#8⟩, ⟨7, 0x57#8⟩,
   ⟨6, 0x37#8⟩, ⟨4, 0x0F#8⟩, ⟨0, 0x00#8⟩, ⟨1, 0x00#8⟩, ⟨1, 0x01#8⟩, ⟨2, 0x01#8⟩, ⟨3, 0x05#8⟩, ⟨2, 0x03#8⟩]

def navShiftIR : List NavEntry :=
  [⟨5, 0x1F#8⟩, ⟨3, 0x03#8⟩, ⟨3, 0x07#8⟩, ⟨4, 0x07#8⟩, ⟨5, 0x07#8⟩, ⟨5, 0x17#8⟩, ⟨6, 0x17#8⟩, ⟨7, 0x57#8⟩,
   ⟨6, 0x37#8⟩, ⟨4, 0x0F#8⟩, ⟨5, 0x0F#8⟩, ⟨0, 0x00#8⟩, ⟨1, 0x01#8⟩, ⟨2, 0x01#8⟩, ⟨3, 0x05#8⟩, ⟨2, 0x03#8⟩]

def navExit1IR : List NavEntry :=
  [⟨5, 0x1F#8⟩, ⟨2, 0x01#8⟩, ⟨2, 0x03#8⟩, ⟨3, 0x03#8⟩, ⟨4, 0x03#8⟩, ⟨4, 0x0B#8⟩, ⟨5, 0x0B#8⟩, ⟨6, 0x2B#8⟩,
   ⟨5, 0x1B#8⟩, ⟨3, 0x07#8⟩, ⟨4, 0x07#8⟩, ⟨3, 0x02#8⟩, ⟨0, 0x00#8⟩, ⟨1, 0x00#8⟩, ⟨2, 0x02#8⟩, ⟨1, 0x01#8⟩]

def navPauseIR : List NavEntry :=
  [⟨5, 0x1F#8⟩, ⟨3, 0x03#8⟩, ⟨3, 0x07#8⟩, ⟨4, 0x07#8⟩, ⟨5, 0x07#8⟩, ⟨5, 0x17#8⟩, ⟨6, 0x17#8⟩, ⟨7, 0x57#8⟩,
   ⟨6, 0x37#8⟩, ⟨4, 0x0F#8⟩, ⟨5, 0x0F#8⟩, ⟨2, 0x01#8⟩, ⟨3, 0x05#8⟩, ⟨0, 0x00#8⟩, ⟨1, 0x01#8⟩, ⟨2, 0x03#8⟩]

def navExit2IR : List NavEntry :=
  [⟨5, 0x1F#8⟩, ⟨2, 0x01#8⟩, ⟨2, 0x03#8⟩, ⟨3, 0x03#8⟩, ⟨4, 0x03#8⟩, ⟨4, 0x0B#8⟩, ⟨5, 0x0B#8⟩, ⟨6, 0x2B#8⟩,
   ⟨5, 0x1B#8⟩, ⟨3, 0x07#8⟩, ⟨4, 0x07#8⟩, ⟨1, 0x00#8⟩, ⟨2, 0x02#8⟩, ⟨3, 0x02#8⟩, ⟨0, 0x00#8⟩, ⟨1, 0x01#8⟩]

def navUpdateIR : List NavEntry :=
  [⟨5, 0x1F#8⟩, ⟨1, 0x00#8⟩, ⟨1, 0x01#8⟩, ⟨2, 0x01#8⟩, ⟨3, 0x01#8⟩, ⟨3, 0x05#8⟩, ⟨4, 0x05#8⟩, ⟨5, 0x15#8⟩,
   ⟨4, 0x0D#8⟩, ⟨2, 0x03#8⟩, ⟨3, 0x03#8⟩, ⟨4, 0x03#8⟩, ⟨4, 0x0B#8⟩, ⟨5, 0x0B#8⟩, ⟨6, 0x2B#8⟩, ⟨0, 0x00#8⟩]

/-- The row of a source state. -/
def navRow : TapState → List NavEntry
  | .reset => navReset
  | .idle => navIdle
  | .selectDR => navSelectDR
  | .captureDR => navCaptureDR
  | .shiftDR => navShiftDR
  | .exit1DR => navExit1DR
  | .pauseDR => navPauseDR
  | .exit2DR => navExit2DR
  | .updateDR => navUpdateDR
  | .selectIR => navSelectIR
  | .captureIR => navCaptureIR
  | .shiftIR => navShiftIR
  | .exit1IR => navExit1IR
  | .pauseIR => navPauseIR
  | .exit2IR => navExit2IR
  | .updateIR => navUpdateIR

/-- `NAV_TABLE[a][b]` (30_encoding.md R78): a lookup, never computed (40_navigator.md R93). -/
def navEntry (a b : TapState) : NavEntry := (navRow a).getD b.code.toNat ⟨0, 0#8⟩

end Sys2Proof
end

