-- ==== Sys2Proof/Machine/Environment.lean ====
section
/-! DEFINITION. The external agents: the free environment (60_exceptions.md R186, R187) and the reference models of
60_exceptions.md section 8 (R191 to R195; notes/assumptions/16.md). Nothing here is state of the block. -/

namespace Sys2Proof.Machine

open Sys2Proof

/-- The data register that a reference TAP's instruction selects. -/
inductive Selected where
  | bypass
  | idcode (v : BitVec 32)
  | reg (r : DataReg)
  deriving DecidableEq, Repr

/-- The register of an instruction code, if the TAP decodes it. -/
def regOfCode : List (Nat × DataReg) → Nat → Option DataReg
  | [], _ => none
  | (c, r) :: rest, v => if c = v then some r else regOfCode rest v

/-- IDCODE when the TAP has an ID code, else BYPASS (60_exceptions.md R191). -/
def Tap.idSelected (t : Tap) : Selected :=
  match t.id with
  | some v => .idcode v
  | none => .bypass

/-- What `ir` selects (60_exceptions.md R191): all ones is BYPASS; a code the TAP does not decode is taken as BYPASS (DESIGN
CHOICE, notes/assumptions/16.md). -/
def Tap.selected (t : Tap) : Selected :=
  match t.ir with
  | .bypass => .bypass
  | .idcode => t.idSelected
  | .code v =>
    if v = 2 ^ t.irLen - 1 then .bypass
    else if t.idInstr = some v then t.idSelected
    else match regOfCode t.regs v with
      | some r => .reg r
      | none => .bypass

/-- The word ISC_READ captures: `{status, P[r]}`, one chosen word masked (60_exceptions.md R194); past the programmed words a
free value (DESIGN CHOICE, notes/assumptions/16.md). -/
def Tap.readWord (t : Tap) : Nat :=
  let w := t.programmed.getD t.readIndex (Config.unprogrammedWord t.readIndex)
  let w := match t.readMask with
    | some (k, m) => if k = t.readIndex then w &&& m else w
    | none => w
  w.toNat + 2 ^ 32 * t.readStatus.toNat

/-- The fuse row a FUSE_CTS capture reads (95_test_vectors.md section 6). -/
def fuseRow : List (Nat × BitVec 32) → Nat → BitVec 32
  | [], _ => 0#32
  | (k, v) :: rest, row => if k = row then v else fuseRow rest row

/-- Capture-DR (60_exceptions.md R191, R194). -/
def Tap.captureDr (t : Tap) : Tap :=
  match t.selected with
  | .bypass => { t with dr := [false] }
  | .idcode v => { t with dr := natBits 32 v.toNat }
  | .reg (.plain len) => { t with dr := List.replicate len false }
  | .reg (.iscEnable len) => { t with dr := List.replicate len false }
  | .reg .iscProgram => { t with dr := List.replicate 32 false }
  | .reg .iscRead => { t with dr := natBits 37 t.readWord, readIndex := t.readIndex + 1 }
  | .reg .fuseCts =>
    { t with dr := natBits 64 (t.latched.toNat % 2 ^ 32 + 2 ^ 32 * (fuseRow t.fuses (t.latched.toNat % 256)).toNat) }

/-- Update-DR (60_exceptions.md R191, R194): ISC_PROGRAM keeps the last 8 words. -/
def Tap.updateDr (t : Tap) : Tap :=
  match t.selected with
  | .reg .iscProgram =>
    let p := t.programmed ++ [BitVec.ofNat 32 (bitsNat t.dr)]
    { t with programmed := p.drop (p.length - 8) }
  | .reg .fuseCts => { t with latched := BitVec.ofNat 64 (bitsNat t.dr) }
  | _ => t

/-- Update-IR (60_exceptions.md R191); ISC_ENABLE sets the read index to 0 (R194). -/
def Tap.updateIr (t : Tap) : Tap :=
  let t := { t with ir := .code (bitsNat t.irs) }
  match t.selected with
  | .reg (.iscEnable _) => { t with readIndex := 0 }
  | _ => t

/-- `IR_CAPTURE`: bits 1:0 are 0b01, the rest device-specific (60_exceptions.md R191). -/
def Tap.irCapture (t : Tap) : Nat := 4 * t.irCaptureHigh + 1

/-- Shift a stage one place: out at bit 0, `tdi` in at the top. -/
def shiftIn (stage : List Bool) (tdi : Bool) : List Bool := stage.drop 1 ++ [tdi]

/-- One clock of a reference TAP (60_exceptions.md R191): the level it drives and its next state. -/
def tapClock (t : Tap) (tms tdi : Bool) : Bool × Tap :=
  let out := match t.ts with
    | .shiftDR => t.dr.headD false
    | .shiftIR => t.irs.headD false
    | _ => true
  let t' := match t.ts with
    | .captureDR => t.captureDr
    | .shiftDR => { t with dr := shiftIn t.dr tdi }
    | .updateDR => t.updateDr
    | .captureIR => { t with irs := natBits t.irLen t.irCapture }
    | .shiftIR => { t with irs := shiftIn t.irs tdi }
    | .updateIR => t.updateIr
    | _ => t
  let ts := t.ts.next tms
  let t' := { t' with ts := ts }
  (out, if ts = .reset then { t' with ir := if t.id.isSome then .idcode else .bypass } else t')

/-- One clock of a chain, ordinal 0 first (60_exceptions.md R192): what TAP 0 drives and the TAPs after it. -/
def chainClock (tms tdi : Bool) : List Tap → Bool × List Tap
  | [] => (tdi, [])
  | t :: rest =>
    let r := chainClock tms tdi rest
    let c := tapClock t tms r.1
    (c.1, c.2 :: r.2)

/-- The rising TCK edge reaches the chain (20_memory.md R59). -/
def Env.risingEdge (e : Env) (tms tdi : Bool) : Env :=
  match e.bench with
  | none => e
  | some b => match b.chain with
    | none => e
    | some taps =>
      let r := chainClock tms tdi taps
      { e with bench := some { b with chain := some r.2, tdo := r.1 } }

/-- A write of `HWM_START` reaches the fuse-blow module (60_exceptions.md R195). -/
def Env.hwmStart (e : Env) (level : Bool) : Env :=
  match e.bench with
  | none => e
  | some b =>
    let h := b.hwm
    let h := if level then { h with startedAt := some e.now, readySeen := false, releasedAt := none }
      else { h with startedAt := none, releasedAt := if h.readySeen then some e.now else h.releasedAt }
    { e with bench := some { b with hwm := h } }

/-- At least `t` microseconds have passed since `since`. -/
def elapsedSince (now : Nat) (since t : Option Nat) : Bool :=
  match since, t with
  | some a, some d => decide (a + d ≤ now)
  | _, _ => false

/-- What an input pin reads: a free value of the trace, or the reference models' level. -/
def Env.sample (e : Env) (pins : Pins) (trace : List Event) (p : InPin) : Bool :=
  match e.bench with
  | none => Config.pinSample p trace
  | some b => match p with
    | .tdo => match b.chain with
      | none => pins.tdi
      | some _ => b.tdo
    | .hwmReady => pins.hwmStart && elapsedSince e.now b.hwm.startedAt b.hwm.tReady
    | .hwmEnd => elapsedSince e.now b.hwm.releasedAt b.hwm.tEnd

/-- The fuse-blow module remembers that `HWM_READY` has read 1 (60_exceptions.md R195). -/
def Env.sampled (e : Env) (p : InPin) (level : Bool) : Env :=
  match e.bench with
  | none => e
  | some b =>
    if p = .hwmReady ∧ level = true then { e with bench := some { b with hwm := { b.hwm with readySeen := true } } } else e

/-- Microseconds before the next timer reading. -/
def Env.advance (e : Env) (trace : List Event) : Nat :=
  match e.bench with
  | none => Config.timerAdvance trace
  | some b => b.usPerRead

/-- Within how many readings a wait of `us` microseconds is sure to see its deadline pass (60_exceptions.md R190). -/
def Env.patience (e : Env) (trace : List Event) (us : Nat) : Nat :=
  match e.bench with
  | none => Config.timerPatience trace
  | some _ => us

end Sys2Proof.Machine
end

