-- ==== Sys2Proof/Machine/Flags.lean ====
section
/-! DEFINITION. The layout of `RESULT` and the codes of faults (60_exceptions.md R172, R176). -/

namespace Sys2Proof.Machine

open Sys2Proof

/-- The error results (60_exceptions.md R172); `word` arguments are the `info` of `VerificationMismatch`. -/
inductive ErrorCode where
  | badPinAssignment | unknownDevice | noTarget | noSuchTap | unknownIrLength | tooManyTaps | multiSegment | badFuseAddress
  | zeroLengthShift | badIdleOnUnstableState
  | timeoutReady | timeoutEnd
  | notReady (word : Nat)
  | dataMismatch (word : Nat)
  | crcMismatch
  deriving DecidableEq, Repr

/-- `{flags, info, sub, class}` (60_exceptions.md R172). -/
def resultWord (flags info sub cls : BitVec 8) : BitVec 32 := flags ++ info ++ sub ++ cls

/-- `OK`. -/
def okWord : BitVec 32 := resultWord 0#8 0#8 0#8 0#8

/-- `FUSE_STATE_UNKNOWN`, bit 0 of `flags`. -/
def fuseStateUnknown : BitVec 8 := 1#8

/-- The `RESULT` word of an error (60_exceptions.md R172). -/
def ErrorCode.word : ErrorCode → BitVec 32
  | .badPinAssignment => resultWord 0#8 0#8 0x01#8 0x01#8
  | .unknownDevice => resultWord 0#8 0#8 0x02#8 0x01#8
  | .noTarget => resultWord 0#8 0#8 0x03#8 0x01#8
  | .noSuchTap => resultWord 0#8 0#8 0x04#8 0x01#8
  | .unknownIrLength => resultWord 0#8 0#8 0x05#8 0x01#8
  | .tooManyTaps => resultWord 0#8 0#8 0x06#8 0x01#8
  | .multiSegment => resultWord 0#8 0#8 0x07#8 0x01#8
  | .badFuseAddress => resultWord 0#8 0#8 0x08#8 0x01#8
  | .zeroLengthShift => resultWord 0#8 0#8 0x01#8 0x02#8
  | .badIdleOnUnstableState => resultWord 0#8 0#8 0x02#8 0x02#8
  | .timeoutReady => resultWord fuseStateUnknown 0#8 0x01#8 0x03#8
  | .timeoutEnd => resultWord fuseStateUnknown 0#8 0x02#8 0x03#8
  | .notReady k => resultWord 0#8 (BitVec.ofNat 8 k) 0x01#8 0x04#8
  | .dataMismatch k => resultWord 0#8 (BitVec.ofNat 8 k) 0x02#8 0x04#8
  | .crcMismatch => resultWord 0#8 0#8 0x03#8 0x04#8

/-- The code of a fault reason (60_exceptions.md R176). -/
def FaultReason.code : FaultReason → BitVec 8
  | .notInitialised => 0x01#8
  | .unknownOp => 0x02#8
  | .badHandle => 0x03#8
  | .sequenceConsumed => 0x04#8
  | .badCommand => 0x05#8
  | .notInShiftState => 0x06#8
  | .notStable => 0x07#8
  | .shiftTooLong => 0x08#8
  | .badFlags => 0x09#8
  | .resourceExhausted => 0x0A#8
  | .badBufferAccess => 0x0B#8
  | .badArgument => 0x0C#8
  | .keyNotLoaded => 0x0D#8
  | .valueTooWide => 0x0E#8

/-- `FAULT` as one word: the sticky flag in bit 8, the reason's code of 60_exceptions.md R176 in bits 7:0. 10_state.md R46 gives the
flag and the reason field and no layout: this one is the model's (DESIGN CHOICE, notes/assumptions/31.md). -/
def faultWord : Option FaultReason → BitVec 9
  | none => 0#9
  | some r => 1#1 ++ r.code

end Sys2Proof.Machine
end

