-- ==== Sys2Proof/Machine/Operands.lean ====
section
/-! DEFINITION. Operand forms: field widths, the flags byte, the TDI stream of a host SHIFT, key packing and the layout of the
captured scans. -/

namespace Sys2Proof

/-- The TDI stream of the host operation SHIFT (41_shift_engine.md R106). -/
def TdiMode.bits (n : Nat) : TdiMode → List Bool
  | .buf bs => bytesBits n bs
  | .zeros => List.replicate n false
  | .ones => List.replicate n true

/-- `tdi_bytes` holds at least `ceil(n/8)` bytes (41_shift_engine.md R106 `BadArgument`). -/
def TdiMode.longEnough (n : Nat) : TdiMode → Bool
  | .buf bs => decide (bytesFor n ≤ bs.length)
  | .zeros => true
  | .ones => true

/-- The pad bit of a direction (41_shift_engine.md R101): 1 for IR, 0 for DR. -/
def Dir.padBit : Dir → Bool
  | .ir => true
  | .dr => false

/-- The lines of a pin map, in the order of 10_state.md R29. -/
def PinMap.lines (m : PinMap) : List Nat := [m.tms, m.tck, m.tdi, m.tdo, m.hwmStart, m.hwmReady, m.hwmEnd]

/-- The line of an output pin (60_exceptions.md R185). -/
def PinMap.outLine (m : PinMap) : OutPin → Nat
  | .tms => m.tms
  | .tck => m.tck
  | .tdi => m.tdi
  | .hwmStart => m.hwmStart

/-- The line of an input pin (60_exceptions.md R185). -/
def PinMap.inLine (m : PinMap) : InPin → Nat
  | .tdo => m.tdo
  | .hwmReady => m.hwmReady
  | .hwmEnd => m.hwmEnd

namespace Machine

/-- Every `(value, width)` fits its field; a value that does not faults `ValueTooWide` (00_scope.md R15, 60_exceptions.md R176). -/
def fitAll : List (Nat × Nat) → Bool
  | [] => true
  | (v, w) :: rest => decide (v < 2 ^ w) && fitAll rest

/-- Bit 0 of the flags byte, `DIR_IR` (30_encoding.md R74). -/
def flagsDir (flags : Nat) : Dir := if flags.testBit 0 then .ir else .dr

/-- Bit 1 of the flags byte, `FILL_ONES` (30_encoding.md R74). -/
def flagsFill (flags : Nat) : Bool := flags.testBit 1

/-- Bits 7:2 of the flags byte are 0 (30_encoding.md R74). -/
def flagsLegal (flags : Nat) : Bool := decide (flags < 4)

/-- The pre-pad count of a direction (41_shift_engine.md R98). -/
def Port.prePad (p : Port) : Dir → Nat
  | .ir => p.irPre.toNat
  | .dr => p.drPre.toNat

/-- The post-pad count of a direction (41_shift_engine.md R98). -/
def Port.postPad (p : Port) : Dir → Nat
  | .ir => p.irPost.toNat
  | .dr => p.drPost.toNat

/-- `KeyWord(k)`: bytes 4k to 4k+3, byte 4k in bits 31:24 (47_bbram.md R162). -/
def keyWord (key : Vector Byte 32) (k : Fin 8) : BitVec 32 :=
  key[4 * k.val] ++ key[4 * k.val + 1] ++ key[4 * k.val + 2] ++ key[4 * k.val + 3]

/-- `KEY.byte[j] <- kb[j]` (47_bbram.md R161). -/
def keyOfBytes (kb : List Byte) : Vector Byte 32 := Vector.ofFn fun j => kb.getD j.val 0#8

/-- The captured word of an ISC_READ scan: stream bits 0 to 31 (30_encoding.md R84). -/
def scanWord (bits : List Bool) : BitVec 32 := BitVec.ofNat 32 (bitsNat (bits.take 32))

/-- The status bits of an ISC_READ scan: stream bits 32 to 36 (30_encoding.md R84). -/
def scanStatus (bits : List Bool) : BitVec 5 := BitVec.ofNat 5 (bitsNat ((bits.drop 32).take 5))

/-- The row data of a FUSE_CTS scan: stream bits 32 to 63 (30_encoding.md R83). -/
def rowData (bits : List Bool) : BitVec 32 := BitVec.ofNat 32 (bitsNat ((bits.drop 32).take 32))

/-- No line number occurs twice. -/
def allDistinct : List Nat → Bool
  | [] => true
  | x :: xs => !xs.contains x && allDistinct xs

/-- A pin map is legal: no two pins share a line and every line is below `GPIO_COUNT` (45_identity.md R139). -/
def pinMapLegal (gpioCount : Nat) (m : PinMap) : Bool :=
  allDistinct m.lines && m.lines.all fun l => decide (l < gpioCount)

end Machine

end Sys2Proof
end

