-- ==== Sys2Proof/Machine/Ops.lean ====
section
/-! DEFINITION. The named operations: buffers, the sequence table, the outcomes of an operation, pins, timer and the clock. -/

namespace Sys2Proof.Machine

open Sys2Proof

/-- The type of a meaning's answer. -/
abbrev Step := Host.Outcome State Fault Refusal

/-! ## Buffers (20_memory.md R51, R52) -/

/-- What an offset that no cell lists reads as (10_state.md R35: a new buffer is zero-filled). -/
def unlistedByte : Byte := 0#8

/-- The byte of a cell list at an offset. -/
def lookupCell : List Host.Cell → Nat → Byte
  | [], _ => unlistedByte
  | (a, b) :: rest, k => if a = k then b else lookupCell rest k

/-- Put a byte at an offset, keeping the canonical form. -/
def insertCell : List Host.Cell → Nat → Byte → List Host.Cell
  | [], k, v => if v = unlistedByte then [] else [(k, v)]
  | (a, b) :: rest, k, v =>
    if k < a then (if v = unlistedByte then (a, b) :: rest else (k, v) :: (a, b) :: rest)
    else if k = a then (if v = unlistedByte then rest else (k, v) :: rest)
    else (a, b) :: insertCell rest k v

/-- Offsets strictly rise from `low` and stay below `size`, and no cell holds the unlisted byte. -/
def cellsWf (size : Nat) : Nat → List Host.Cell → Bool
  | _, [] => true
  | low, (a, b) :: rest => decide (low ≤ a) && decide (a < size) && decide (b ≠ unlistedByte) && cellsWf size (a + 1) rest

/-- The canonical form of a buffer (notes/assumptions/19.md). -/
def Memory.wf (m : Memory) : Bool := cellsWf m.size 0 m.cells

/-- A zero-filled buffer of `size` bytes (10_state.md R35). -/
def newBuffer (size : Nat) : Memory := { size := size, cells := [] }

/-- One byte of a buffer. -/
def Memory.byteAt (m : Memory) (o : Nat) : Byte := lookupCell m.cells o

/-- Write one byte; an offset outside the buffer changes nothing (the callers check the bounds first). -/
def Memory.setByte (m : Memory) (o : Nat) (v : Byte) : Memory :=
  if o < m.size then { m with cells := insertCell m.cells o v } else m

/-- The bytes `o .. o+n-1`. -/
def Memory.slice (m : Memory) : Nat → Nat → List Byte
  | _, 0 => []
  | o, n + 1 => m.byteAt o :: m.slice (o + 1) n

/-- Write bytes from offset `o` on. -/
def Memory.setBytes : Memory → Nat → List Byte → Memory
  | m, _, [] => m
  | m, o, b :: bs => Memory.setBytes (m.setByte o b) (o + 1) bs

/-- `BitRead` (20_memory.md R52). -/
def Memory.bitAt (m : Memory) (i : Nat) : Bool := (m.byteAt (i / 8)).getLsbD (i % 8)

/-- A byte with bit `k` set to `b`. -/
def setBit (x : Byte) (k : Nat) (b : Bool) : Byte :=
  if b then x ||| (1#8 <<< k) else x &&& ~~~(1#8 <<< k)

/-- `BitWrite` (20_memory.md R52). -/
def Memory.setBitAt (m : Memory) (i : Nat) (b : Bool) : Memory := m.setByte (i / 8) (setBit (m.byteAt (i / 8)) (i % 8) b)

/-- Stream bits 0 to n−1 of a buffer. -/
def Memory.stream (m : Memory) (n : Nat) : List Bool := (List.range n).map m.bitAt

/-- Write stream bits from bit `i` on (41_shift_engine.md R105). -/
def Memory.setStream : Memory → Nat → List Bool → Memory
  | m, _, [] => m
  | m, i, b :: bs => Memory.setStream (m.setBitAt i b) (i + 1) bs

/-- `MemRead((h, o), n)` on a pool; `none` outside a live buffer (20_memory.md R51). -/
def memRead (pool : List Memory) (h o n : Nat) : Option (List Byte) :=
  match pool[h]? with
  | none => none
  | some m => if o + n ≤ m.size then some (m.slice o n) else none

/-- `MemWrite((h, o), n, v)` on a pool; `none` outside a live buffer (20_memory.md R51). -/
def memWrite (pool : List Memory) (h o : Nat) (bs : List Byte) : Option (List Memory) :=
  match pool[h]? with
  | none => none
  | some m => if o + bs.length ≤ m.size then some (pool.set h (m.setBytes o bs)) else none

/-! ## The sequence table (10_state.md R33; notes/assumptions/18.md) -/

/-- `SEQS[q]`, if valid. -/
def seqLookup : List (Nat × Seq) → Nat → Option Seq
  | [], _ => none
  | (a, v) :: rest, q => if a = q then some v else seqLookup rest q

/-- `SEQS[q] <- v`, keeping the handles rising. -/
def seqInsert : List (Nat × Seq) → Nat → Seq → List (Nat × Seq)
  | [], q, v => [(q, v)]
  | (a, x) :: rest, q, v =>
    if q < a then (q, v) :: (a, x) :: rest
    else if q = a then (q, v) :: rest
    else (a, x) :: seqInsert rest q v

/-- `SEQS[q] <- {valid: 0}`. -/
def seqErase : List (Nat × Seq) → Nat → List (Nat × Seq)
  | [], _ => []
  | (a, x) :: rest, q => if a = q then rest else (a, x) :: seqErase rest q

/-- The lowest handle from `k` on that is not in a list of rising handles (42_sequence_builder.md R110). -/
def firstFree : List (Nat × Seq) → Nat → Nat
  | [], k => k
  | (a, _) :: rest, k => if a = k then firstFree rest (k + 1) else k

/-- `SEQS[q]` of a state. -/
def State.seqAt (s : State) (q : Nat) : Option Seq := seqLookup s.seqs q

/-- `SEQS[q] <- v`. -/
def State.setSeq (s : State) (q : Nat) (v : Seq) : State := s.withSeqs (seqInsert s.seqs q v)

/-- The sequence whose buffers a command word names: `SEQS[EXEC.SEQ]`, or `PSEQ` when `EXEC.SEQ` is none (30_encoding.md R73,
43_executor.md R127; notes/assumptions/22.md). -/
def State.curSeq (s : State) : Seq :=
  match s.exec.seq with
  | some q => (s.seqAt q).getD Seq.empty
  | none => s.pseq

/-- Replace that sequence's pool. -/
def State.setCurPool (s : State) (pool : List Memory) : State :=
  match s.exec.seq with
  | some q => match s.seqAt q with
    | some v => s.setSeq q { v with pool := pool }
    | none => s
  | none => s.withPseq { s.pseq with pool := pool }

/-! ## The outcomes of an operation (60_exceptions.md sections 1 to 3) -/

/-- `fault R`: FAULT becomes 1 with the reason, the operation ends and returns nothing; everything it did before stays
(60_exceptions.md R176; notes/assumptions/9.md). No operation returns from a fault. -/
def takeFault (r : FaultReason) (s : State) : State := (s.withFault (some r)).withReturned .nothing

/-- `raise E(info)`: RESULT takes the error and the operation ends (60_exceptions.md R173). There is no handler to return from
(R180). -/
def raiseError (e : ErrorCode) (s : State) : State := (s.withResult e.word).withReturned .nothing

/-- The operation ends normally, `RESULT <- OK`, with its return values (10_state.md R45). -/
def complete (v : Returned) (s : State) : State := (s.withResult okWord).withReturned v

/-- A faulted block is stuck: no register, pin or result changes and nothing is returned (60_exceptions.md R176). -/
def stuck (s : State) : State := s.withReturned .nothing

/-- An operation's body runs unless the block is faulted (60_exceptions.md R178 (1)). -/
def unlessFaulted (body : State → State) (s : State) : Step :=
  .next (if s.fault.isSome then stuck s else body s)

/-- Every operation but PORT_INIT first checks `PORT.INIT` (60_exceptions.md R178 (3)). -/
def operation (body : State → State) (s : State) : Step :=
  unlessFaulted (fun s => if s.port.init then body s else takeFault .notInitialised s) s

/-- The widths of operands and parameters, then the body (60_exceptions.md R176 `ValueTooWide`, 00_scope.md R15;
notes/assumptions/7.md and 13.md). -/
def withinWidths (ws : List (Nat × Nat)) (body : State → State) (s : State) : State :=
  if fitAll ws then body s else takeFault .valueTooWide s

/-! ## Pins (60_exceptions.md R185, 10_state.md R30) -/

/-- The latches after a write. -/
def Pins.set (ps : Pins) : OutPin → Bool → Pins
  | .tms, b => { ps with tms := b }
  | .tck, b => { ps with tck := b }
  | .tdi, b => { ps with tdi := b }
  | .hwmStart, b => { ps with hwmStart := b }

/-- What a write does to the external agents (20_memory.md R59): a rising TCK edge clocks the chain, `HWM_START` reaches the
fuse-blow module. -/
def Env.onWrite (e : Env) (before : Pins) (p : OutPin) (b : Bool) : Env :=
  match p with
  | .tck => if b && !before.tck then e.risingEdge before.tms before.tdi else e
  | .hwmStart => e.hwmStart b
  | .tms => e
  | .tdi => e

/-- `PinWrite(p, b)`. -/
def pinWrite (p : OutPin) (b : Bool) (s : State) : State :=
  ((s.withPins (s.pins.set p b)).withEnv (s.env.onWrite s.pins p b)).withTrace
    (.write p (s.port.pinmap.outLine p) b :: s.trace)

/-- `PinRead(p)`: the sampled bit and the state after. -/
def pinRead (p : InPin) (s : State) : Bool × State :=
  let b := s.env.sample s.pins s.trace p
  (b, (s.withEnv (s.env.sampled p b)).withTrace (.read p (s.port.pinmap.inLine p) b :: s.trace))

/-! ## The timer (60_exceptions.md R187 to R190) -/

/-- The state after a timer reading at absolute microsecond `now`. -/
def timerAt (now : Nat) (s : State) : BitVec 64 × State :=
  let t := BitVec.ofNat 64 now
  (t, (s.withEnv { s.env with now := now }).withTrace (.timer t :: s.trace))

/-- `TimerRead()`. -/
def timerRead (s : State) : BitVec 64 × State := timerAt (s.env.now + s.env.advance s.trace) s

/-- A reading at which at least `us` microseconds have passed since `t0`, modulo 2^64 (60_exceptions.md R187, R190). For a `us` of
2^64 or more, which no difference of readings reaches, the clock still passes the deadline (notes/assumptions/12.md). -/
def timerReadPast (t0 : BitVec 64) (us : Nat) (s : State) : BitVec 64 × State :=
  let now := s.env.now + s.env.advance s.trace
  timerAt (now + (us - (BitVec.ofNat 64 now - t0).toNat)) s

/-- The loop of `Delay` (60_exceptions.md R188); the count bounds the readings (R190). -/
def delayLoop (t0 : BitVec 64) (us : Nat) : Nat → State → State
  | 0, s => (timerReadPast t0 us s).2
  | k + 1, s =>
    let r := timerRead s
    if us ≤ (r.1 - t0).toNat then r.2 else delayLoop t0 us k r.2

/-- `Delay(us)` (60_exceptions.md R188). -/
def delay (us : Nat) (s : State) : State :=
  let r := timerRead s
  delayLoop r.1 us (r.2.env.patience r.2.trace us) r.2

/-- The loop of `Poll` (60_exceptions.md R189): the pin is sampled before the timer on every iteration. -/
def pollLoop (p : InPin) (t0 : BitVec 64) (us : Nat) : Nat → State → Bool × State
  | 0, s =>
    let r := pinRead p s
    if r.1 then (true, r.2) else (false, (timerReadPast t0 us r.2).2)
  | k + 1, s =>
    let r := pinRead p s
    if r.1 then (true, r.2)
    else
      let t := timerRead r.2
      if us ≤ (t.1 - t0).toNat then (false, t.2) else pollLoop p t0 us k t.2

/-- `Poll(p, us)` (60_exceptions.md R189). -/
def poll (p : InPin) (us : Nat) (s : State) : Bool × State :=
  let r := timerRead s
  pollLoop p r.1 us (r.2.env.patience r.2.trace us) r.2

/-! ## The clock cycle (40_navigator.md R88 to R90) -/

/-- `PORT.CUR <- c`. -/
def State.setCur (s : State) (c : TapState) : State := s.withPort (s.port.withCur c)

/-- TDI of a cycle: driven, or kept (`tdi = keep`). -/
def driveTdi (tdi : Option Bool) (s : State) : State :=
  match tdi with
  | some b => pinWrite .tdi b s
  | none => s

/-- `Clock(tms, tdi)`: the sampled TDO bit and the state after. -/
def clock (tms : Bool) (tdi : Option Bool) (s : State) : Bool × State :=
  let r := pinRead .tdo (pinWrite .tck true (driveTdi tdi (pinWrite .tms tms s)))
  let s' := pinWrite .tck false r.2
  (r.1, s'.setCur (s'.port.cur.next tms))

end Sys2Proof.Machine
end

