-- ==== Sys2Proof/Machine/Builder.lean ====
section
/-! DEFINITION. The command sequence builder and buffer pool (42_sequence_builder.md). -/

namespace Sys2Proof.Machine

open Sys2Proof

/-- Append a SETSTATE word (42_sequence_builder.md R111). -/
def Seq.addState (v : Seq) (st : TapState) (idle : Nat) : Seq :=
  { v with cmds := v.cmds ++ [encodeSetState st idle] }

/-- Buffers a SHIFT asks for. -/
def wantCount (wantTdi wantTdo : Bool) : Nat := wantTdi.toNat + wantTdo.toNat

/-- The TDI source of an appended SHIFT word: the next buffer, or the fill constant (42_sequence_builder.md R112). -/
def Seq.tdiOf (v : Seq) (wantTdi fill : Bool) : TdiSource :=
  if wantTdi then .buf v.pool.length else .fill fill

/-- The TDO buffer of an appended SHIFT word, after the TDI buffer (42_sequence_builder.md R112, R113). -/
def Seq.tdoOf (v : Seq) (wantTdi wantTdo : Bool) : Option Nat :=
  if wantTdo then some (v.pool.length + wantTdi.toNat) else none

/-- Append a SHIFT word and allocate its zero-filled buffers (42_sequence_builder.md R112). -/
def Seq.addShift (v : Seq) (dir : Dir) (fill : Bool) (n : Nat) (wantTdi wantTdo : Bool) (exit : TapState) : Seq :=
  { v with
    cmds := v.cmds ++ [encodeShift dir n (v.tdiOf wantTdi fill) (v.tdoOf wantTdi wantTdo) exit]
    pool := v.pool ++ List.replicate (wantCount wantTdi wantTdo) (newBuffer (bytesFor n)) }

/-- The check of a sequence handle, before the widths of the other operands, then the body on the live record
(42_sequence_builder.md R109). A handle of more than 16 bits names no live sequence (notes/assumptions/7.md). -/
def withSeq (q : Nat) (body : Seq → State → State) (s : State) : State :=
  match s.seqAt q with
  | none => takeFault .badHandle s
  | some v => body v s

/-- The checks of an appending operation (42_sequence_builder.md R109). -/
def withOpenSeq (q : Nat) (body : Seq → State → State) (s : State) : State :=
  withSeq q (fun v s => if v.consumed then takeFault .sequenceConsumed s else body v s) s

/-- SEQ_CREATE (42_sequence_builder.md R110). -/
def execSeqCreate (node : Nat) (s : State) : Step :=
  operation (withinWidths [(node, 8)] fun s =>
    let q := firstFree s.seqs 0
    if q < Config.handleCount then
      complete (.handle q) (s.setSeq q { Seq.empty with node := BitVec.ofNat 8 node })
    else takeFault .resourceExhausted s) s

/-- SEQ_ADD_STATE (42_sequence_builder.md R111). -/
def execSeqAddState (q : Nat) (st : TapState) (idle : Nat) (s : State) : Step :=
  operation (withOpenSeq q fun v => withinWidths [(idle, 32)] fun s =>
    if idle > 0 ∧ st.stable = false then raiseError .badIdleOnUnstableState s
    else complete .nothing (s.setSeq q (v.addState st idle))) s

/-- SEQ_ADD_SHIFT (42_sequence_builder.md R112). -/
def execSeqAddShift (q flags n : Nat) (wantTdi wantTdo : Bool) (exit : TapState) (s : State) : Step :=
  operation (withOpenSeq q fun v => withinWidths [(flags, 8)] fun s =>
    if flagsLegal flags = false then takeFault .badFlags s
    else if n = 0 then raiseError .zeroLengthShift s
    else if n > Config.maxShiftBits then takeFault .shiftTooLong s
    else if v.pool.length + wantCount wantTdi wantTdo > Config.handleCount then takeFault .resourceExhausted s
    else
      complete (.bufHandles (if wantTdi then some v.pool.length else none) (v.tdoOf wantTdi wantTdo))
        (s.setSeq q (v.addShift (flagsDir flags) (flagsFill flags) n wantTdi wantTdo exit))) s

/-- SEQ_CLEAR (42_sequence_builder.md R114). -/
def execSeqClear (q : Nat) (s : State) : Step :=
  operation (withSeq q fun v s =>
    complete .nothing (s.setSeq q { v with cmds := [], pool := [], consumed := false })) s

/-- SEQ_DELETE (42_sequence_builder.md R115). -/
def execSeqDelete (q : Nat) (s : State) : Step :=
  operation (withSeq q fun _ s => complete .nothing (s.withSeqs (seqErase s.seqs q))) s

/-- BUF_WRITE (42_sequence_builder.md R116). -/
def execBufWrite (q h o : Nat) (bytes : List Byte) (s : State) : Step :=
  operation (withSeq q fun v => withinWidths [(h, 16)] fun s =>
    match memWrite v.pool h o bytes with
    | none => takeFault .badBufferAccess s
    | some pool => complete .nothing (s.setSeq q { v with pool := pool })) s

/-- BUF_READ (42_sequence_builder.md R117). -/
def execBufRead (q h o n : Nat) (s : State) : Step :=
  operation (withSeq q fun v => withinWidths [(h, 16)] fun s =>
    match memRead v.pool h o n with
    | none => takeFault .badBufferAccess s
    | some bs => complete (.bytes bs) s) s

end Sys2Proof.Machine
end

