-- ==== Sys2Proof/Machine/Navigator.lean ====
section
/-! DEFINITION. The TAP navigator: walks and ticks (40_navigator.md), and the host operations NAVIGATE and PULSE. -/

namespace Sys2Proof.Machine

open Sys2Proof

/-- Clock out TMS bits without driving TDI (40_navigator.md R96). -/
def walk : List Bool → State → State
  | [], s => s
  | tms :: rest, s => walk rest (clock tms none s).2

/-- `Navigate(target)` after its `PORT.INIT` check (40_navigator.md R91, R92): five TMS-high clocks to `Reset` from every state,
nothing when already there, else the walk of the table. -/
def navigateTo (target : TapState) (s : State) : State :=
  if target = .reset then walk (List.replicate Config.resetClocks true) s
  else if target = s.port.cur then s
  else walk (navEntry s.port.cur target).walk s

/-- `count` ticks holding the present state (40_navigator.md R95), which is stable. -/
def ticks (count : Nat) (s : State) : State := walk (List.replicate count s.port.cur.holdTms) s

/-- NAVIGATE (40_navigator.md R91). -/
def execNavigate (target : TapState) (s : State) : Step :=
  operation (fun s => complete .nothing (navigateTo target s)) s

/-- PULSE (40_navigator.md R95). -/
def execPulse (count : Nat) (s : State) : Step :=
  operation (withinWidths [(count, 32)] fun s =>
    if count = 0 then complete .nothing s
    else if s.port.cur.stable = false then takeFault .notStable s
    else complete .nothing (ticks count s)) s

end Sys2Proof.Machine
end

