-- ==== Sys2Proof/Machine/ShiftEngine.lean ====
section
/-! DEFINITION. The shift engine (41_shift_engine.md) and the host operation SHIFT. -/

namespace Sys2Proof.Machine

open Sys2Proof

/-- Shift a stream, one bit a clock, TMS raised on the last clock when leaving (41_shift_engine.md R102); the samples, first
clock first, and the state after. -/
def shiftClocks (leave : Bool) : List Bool → State → List Bool × State
  | [], s => ([], s)
  | b :: rest, s =>
    let r := clock (leave && rest.isEmpty) (some b) s
    let q := shiftClocks leave rest r.2
    (r.1 :: q.1, q.2)

/-- The padded stream: pre-pad bits, the caller's bits, post-pad bits (41_shift_engine.md R100, R101). -/
def paddedStream (p : Port) (dir : Dir) (bits : List Bool) : List Bool :=
  List.replicate (p.prePad dir) dir.padBit ++ bits ++ List.replicate (p.postPad dir) dir.padBit

/-- The engine after its checks (41_shift_engine.md R98): the caller's captured bits and the state after. -/
def shiftEngine (dir : Dir) (bits : List Bool) (exit : TapState) (s : State) : List Bool × State :=
  let r := shiftClocks (decide (exit ≠ dir.shiftState)) (paddedStream s.port dir bits) s
  ((r.1.drop (s.port.prePad dir)).take bits.length, r.2)

/-- SHIFT (41_shift_engine.md R106); the check of `tdi_bytes` comes after the engine's (notes/assumptions/8.md). -/
def execShift (dir : Dir) (n : Nat) (tdi : TdiMode) (capture : Bool) (exit : TapState) (s : State) : Step :=
  operation (fun s =>
    if s.port.cur ≠ dir.shiftState then takeFault .notInShiftState s
    else if n = 0 then raiseError .zeroLengthShift s
    else if n > Config.maxShiftBits then takeFault .shiftTooLong s
    else if tdi.longEnough n = false then takeFault .badArgument s
    else
      let r := shiftEngine dir (tdi.bits n) exit s
      complete (.shiftOut (if capture then some (bitsBytes r.1) else none) (decide (r.2.port.cur ≠ exit))) r.2) s

end Sys2Proof.Machine
end

