-- ==== Sys2Proof/Machine/Executor.lean ====
section
/-! DEFINITION. The sequence executor (43_executor.md): the command kinds, the run loop, SEQ_RUN, and the runs of the protocol
layer's fixed sequences. -/

namespace Sys2Proof.Machine

open Sys2Proof

/-- `h` names a live buffer of at least `ceil(n/8)` bytes (30_encoding.md R75 (e)). -/
def holdsBits (pool : List Memory) (n h : Nat) : Bool :=
  match pool[h]? with
  | none => false
  | some m => decide (bytesFor n ≤ m.size)

/-- 30_encoding.md R75 (e) for a TDI source. -/
def tdiLive (pool : List Memory) (n : Nat) : TdiSource → Bool
  | .buf h => holdsBits pool n h
  | .fill _ => true

/-- 30_encoding.md R75 (e) for a TDO buffer. -/
def tdoLive (pool : List Memory) (n : Nat) : Option Nat → Bool
  | some h => holdsBits pool n h
  | none => true

/-- A SHIFT command is legal for a sequence: 30_encoding.md R75 (c), (e). -/
def shiftLegal (v : Seq) (n : Nat) (tdi : TdiSource) (tdo : Option Nat) : Bool :=
  shiftWellFormed n tdi tdo && tdiLive v.pool n tdi && tdoLive v.pool n tdo

/-- A SETSTATE command is legal: 30_encoding.md R75 (b), and IDLE fits its field. -/
def setStateLegal (st : TapState) (idle : Nat) : Bool := (Instr.setState st idle).wellFormed

/-- The TDI stream of a SHIFT command, read when it executes (20_memory.md R68). -/
def commandBits (v : Seq) (n : Nat) : TdiSource → List Bool
  | .buf h => ((v.pool[h]?).getD (newBuffer 0)).stream n
  | .fill ones => List.replicate n ones

/-- Store captured bits in buffer `Q` of the sequence being run (41_shift_engine.md R105). -/
def storeCapture (tdo : Option Nat) (bits : List Bool) (s : State) : State :=
  match tdo with
  | none => s
  | some h => match s.curSeq.pool[h]? with
    | none => s
    | some m => s.setCurPool (s.curSeq.pool.set h (m.setStream 0 bits))

/-- `EXEC.NEED_NAV <- b`. -/
def State.setNeedNav (s : State) (b : Bool) : State := s.withExec { s.exec with needNav := b }

/-- `EXEC.PC <- k`. -/
def State.setPc (s : State) (k : Nat) : State := s.withExec { s.exec with pc := k }

/-- `EXEC.SEQ <- q`. -/
def State.setExecSeq (s : State) (q : Option Nat) : State := s.withExec { s.exec with seq := q }

/-- `ExecSetState` (43_executor.md R121). -/
def setStateEffect (st : TapState) (idle : Nat) (s : State) : State := ticks idle (navigateTo st s)

/-- `ExecShift` (43_executor.md R122): to the shift state unless there, the engine, and from the Exit1 state to the exit state
when it needs it. -/
def shiftEffect (dir : Dir) (n : Nat) (tdi : TdiSource) (tdo : Option Nat) (exit : TapState) (s : State) : State :=
  let s1 := if s.port.cur = dir.shiftState then s else navigateTo dir.shiftState s
  let r := shiftEngine dir (commandBits s1.curSeq n tdi) exit s1
  let need := decide (r.2.port.cur ≠ exit)
  let s2 := (storeCapture tdo r.1 r.2).setNeedNav need
  if need then navigateTo exit s2 else s2

/-- A command's body: `PORT.INIT` (43_executor.md R118), then 30_encoding.md R75 (`BadCommand`), then its effect. -/
def commandBody (legal : Seq → Bool) (effect : State → State) (s : State) : State :=
  if s.port.init = false then takeFault .notInitialised s
  else if legal s.curSeq = false then takeFault .badCommand s
  else effect s

/-- The body of SETSTATE. -/
def setStateBody (st : TapState) (idle : Nat) (s : State) : State :=
  commandBody (fun _ => setStateLegal st idle) (setStateEffect st idle) s

/-- The body of a SHIFT command. -/
def shiftBody (dir : Dir) (n : Nat) (tdi : TdiSource) (tdo : Option Nat) (exit : TapState) (s : State) : State :=
  commandBody (fun v => shiftLegal v n tdi tdo) (shiftEffect dir n tdi tdo exit) s

/-- SETSTATE (43_executor.md R121). -/
def execSetState (st : TapState) (idle : Nat) (s : State) : Step := unlessFaulted (setStateBody st idle) s

/-- SHIFT.DR (43_executor.md R122). -/
def execShiftDr (n : Nat) (tdi : TdiSource) (tdo : Option Nat) (exit : TapState) (s : State) : Step :=
  unlessFaulted (shiftBody .dr n tdi tdo exit) s

/-- SHIFT.IR (43_executor.md R122). -/
def execShiftIr (n : Nat) (tdi : TdiSource) (tdo : Option Nat) (exit : TapState) (s : State) : Step :=
  unlessFaulted (shiftBody .ir n tdi tdo exit) s

/-- The body of the command a word holds; a word the decoder refuses, or that holds no command, is `BadCommand`
(30_encoding.md R75). -/
def wordBody (w : Word64) (s : State) : State :=
  match decodeCommand w with
  | .ok (.setState st idle) => setStateBody st idle s
  | .ok (.shiftDr n tdi tdo exit) => shiftBody .dr n tdi tdo exit s
  | .ok (.shiftIr n tdi tdo exit) => shiftBody .ir n tdi tdo exit s
  | .ok _ => takeFault .badCommand s
  | .error _ => takeFault .badCommand s

/-- After a command: `EXEC.PC` advances by 1, unless the command faulted (43_executor.md R118, R124). -/
def advancePc (s : State) : State := if s.fault.isSome then s else s.setPc (s.exec.pc + 1)

/-- The loop of 43_executor.md R118 over the commands left; a fault stops it. -/
def runWords : List Word64 → State → State
  | [], s => s
  | w :: rest, s =>
    let s' := advancePc (wordBody w s)
    if s'.fault.isSome then s' else runWords rest s'

/-- The end of a run: `EXEC.SEQ <- none` and `RESULT <- OK` (43_executor.md R118). -/
def endRun (s : State) : State := complete .nothing (s.setExecSeq none)

/-- The start of a run: the sequence is consumed before its first command (43_executor.md R118, R119). -/
def beginRun (q : Nat) (v : Seq) (s : State) : State :=
  (s.setSeq q { v with consumed := true }).withExec { s.exec with seq := some q, pc := 0 }

/-- SEQ_RUN (43_executor.md R118). -/
def execSeqRun (q : Nat) (s : State) : Step :=
  operation (withOpenSeq q fun v s =>
    let t := runWords v.cmds (beginRun q v s)
    if t.fault.isSome then t else endRun t) s

/-- `RunFixed(PSEQ)` on a freshly built `PSEQ` (43_executor.md R127). Its consumed bit is not written, `EXEC.SEQ` is none, and its
`node` is 0 (DESIGN CHOICE, notes/assumptions/22.md). -/
def runFixed (v : Seq) (s : State) : State :=
  runWords v.cmds ((s.withPseq v).withExec { s.exec with seq := none, pc := 0 })

/-- A fixed sequence, and what follows it unless it faulted (43_executor.md R128). `PSEQ`, empty since the start of the operation (R127),
takes the sequence here. -/
def afterFixed (v : Seq) (next : State → State) (s : State) : State :=
  let t := runFixed v s
  if t.fault.isSome then t else next t

end Sys2Proof.Machine
end

