-- ==== Sys2Proof/Machine/Efuse.lean ====
section
/-! DEFINITION. The protocol layer's common rules, the eFUSE operations and JPROGRAM (46_efuse.md). -/

namespace Sys2Proof.Machine

open Sys2Proof

/-! ## Fixed sequences (30_encoding.md R86, 43_executor.md R127) -/

/-- `TLR`. -/
def Seq.tlr (v : Seq) : Seq := v.addState .reset 0

/-- `IDLE n`. -/
def Seq.idleFor (v : Seq) (n : Nat) : Seq := v.addState .idle n

/-- Place an n-bit value in buffer `h`, LSB first (20_memory.md R53). -/
def Seq.fillBuffer (v : Seq) (h n value : Nat) : Seq :=
  match memWrite v.pool h 0 (natBytes (bytesFor n) (value % 2 ^ n)) with
  | some pool => { v with pool := pool }
  | none => v

/-- `LOADIR op`: the low `len` bits of the opcode (46_efuse.md R147; notes/assumptions/15.md). -/
def Seq.loadIr (v : Seq) (len opcode : Nat) : Seq :=
  (v.addShift .ir false len true false .idle).fillBuffer v.pool.length len opcode

/-- `DRSCAN n, tdi=value`, capturing when `wantTdo`. -/
def Seq.drScan (v : Seq) (n value : Nat) (wantTdo : Bool) : Seq :=
  (v.addShift .dr false n true wantTdo .idle).fillBuffer v.pool.length n value

/-- `DRSCAN n, tdi=zeros` or `ones`, capturing when `wantTdo`. -/
def Seq.drScanFill (v : Seq) (n : Nat) (ones wantTdo : Bool) : Seq := v.addShift .dr ones n false wantTdo .idle

/-- The stream captured in buffer `h` of `PSEQ`. -/
def pseqStream (h n : Nat) (s : State) : List Bool := ((s.pseq.pool[h]?).getD (newBuffer 0)).stream n

/-! ## Common checks -/

/-- The checks of 46_efuse.md R146 after `PORT.INIT`, then the body with the target's family and IR length. -/
def withTarget (body : Family → Nat → State → State) (s : State) : State :=
  match s.port.family with
  | none => raiseError .noTarget s
  | some f =>
    if s.port.irLen = 0#8 then raiseError .noTarget s
    else if s.port.segments ≠ 1#8 then raiseError .multiSegment s
    else body f s.port.irLen.toNat s

/-- An operation of the protocol layer that runs a fixed sequence: `PSEQ` is emptied at its start (43_executor.md R127, 10_state.md R36;
after `PORT.INIT`, notes/assumptions/22.md), then the checks of 46_efuse.md R146. -/
def protocolOperation (body : Family → Nat → State → State) (s : State) : Step :=
  operation (fun s => withTarget body (s.withPseq Seq.empty)) s

/-! ## JPROGRAM -/

/-- The fixed sequence of JPROGRAM (46_efuse.md R158). -/
def jprogramSeq (f : Family) (len : Nat) : Seq := Seq.empty.tlr.loadIr len (Config.deviceOpcode .jprogram f)

/-- JPROGRAM (46_efuse.md R158). -/
def execJprogram (s : State) : Step :=
  protocolOperation (fun f len =>
    afterFixed (jprogramSeq f len) fun s => complete .nothing (delay Config.jprogramSettleUs s)) s

/-! ## EFUSE_PROGRAM_ROW -/

/-- `Handshake()` (46_efuse.md R152). -/
def handshake (s : State) : State :=
  let r := poll .hwmReady Config.hwmTimeoutUs (pinWrite .hwmStart true s)
  if r.1 = false then raiseError .timeoutReady (pinWrite .hwmStart false r.2)
  else
    let e := poll .hwmEnd Config.hwmTimeoutUs (pinWrite .hwmStart false (delay Config.fusePulseHoldUs r.2))
    if e.1 = false then raiseError .timeoutEnd e.2 else complete .nothing e.2

/-- The fixed sequence of EFUSE_PROGRAM_ROW (46_efuse.md R150). -/
def efuseProgramSeq (f : Family) (len : Nat) (w : BitVec 64) : Seq :=
  ((Seq.empty.tlr.loadIr len (Config.deviceOpcode .fuseCts f)).drScan Config.efuseDrBits w.toNat false).idleFor
    Config.efuseProgIdle

/-- EFUSE_PROGRAM_ROW (46_efuse.md R150); an idle count that its command word cannot hold faults (00_scope.md R15;
notes/assumptions/13.md). -/
def execEfuseProgramRow (row bit page : Nat) (redundant : Bool) (s : State) : Step :=
  protocolOperation (fun f len => withinWidths [(row, 16), (page, 8)] fun s =>
    if bit > 31 then takeFault .badArgument s
    else match Config.efuseDrEncode f (BitVec.ofNat 16 row) (BitVec.ofNat 5 bit) (BitVec.ofNat 8 page) redundant true with
      | none => raiseError .badFuseAddress s
      | some w => withinWidths [(Config.efuseProgIdle, 32)] (afterFixed (efuseProgramSeq f len w) handshake) s) s

/-! ## EFUSE_READ_ROW -/

/-- The fixed sequence of EFUSE_READ_ROW (46_efuse.md R156): two scans of the same word (R157). -/
def efuseReadSeq (f : Family) (len : Nat) (w : BitVec 64) : Seq :=
  (((Seq.empty.tlr.loadIr len (Config.deviceOpcode .fuseCts f)).drScan Config.efuseDrBits w.toNat false).idleFor
    Config.efuseReadIdle).drScan Config.efuseDrBits w.toNat true

/-- The capture buffer of the second scan: after the opcode and the two request words. -/
def efuseCaptureHandle : Nat := 3

/-- EFUSE_READ_ROW (46_efuse.md R156); an idle count that its command word cannot hold faults (00_scope.md R15;
notes/assumptions/13.md). -/
def execEfuseReadRow (row page : Nat) (redundant : Bool) (s : State) : Step :=
  protocolOperation (fun f len => withinWidths [(row, 16), (page, 8)] fun s =>
    match Config.efuseDrEncode f (BitVec.ofNat 16 row) 0#5 (BitVec.ofNat 8 page) redundant false with
    | none => raiseError .badFuseAddress s
    | some w => withinWidths [(Config.efuseReadIdle, 32)] (afterFixed (efuseReadSeq f len w) fun t =>
        complete (.rowData (rowData (pseqStream efuseCaptureHandle Config.efuseDrBits t))) t) s) s

end Sys2Proof.Machine
end

