-- ==== Sys2Proof/Machine/Bbram.lean ====
section
/-! DEFINITION. The BBRAM key sequencer (47_bbram.md). -/

namespace Sys2Proof.Machine

open Sys2Proof

/-! ## KEY_LOAD -/

/-- The key registers KEY_LOAD writes (47_bbram.md R161). -/
def loadedKey (kb : List Byte) (crcValid : Bool) (crc : Nat) : KeyRegs :=
  { bytes := keyOfBytes kb, crc := if crcValid then BitVec.ofNat 32 crc else 0#32, crcValid := crcValid, loaded := true }

/-- KEY_LOAD (47_bbram.md R161); the CRC is ignored when it is not valid (notes/assumptions/24.md). -/
def execKeyLoad (kb : List Byte) (crcValid : Bool) (crc : Nat) (s : State) : Step :=
  operation (withinWidths [(if crcValid then crc else 0, 32)] fun s =>
    if kb.length ≠ 32 then takeFault .badArgument s
    else complete .nothing (s.withKey (loadedKey kb crcValid crc))) s

/-! ## BBRAM_PROGRAM -/

/-- `LOADIR OP_ISC_ENABLE`, its 5-bit DR scan and its idle clocks (47_bbram.md R163, R165). -/
def Seq.iscEnable (v : Seq) (f : Family) (len : Nat) : Seq :=
  ((v.loadIr len (Config.deviceOpcode .iscEnable f)).drScan 5 Config.bbramEnableDr.toNat false).idleFor Config.bbramEnableIdle

/-- The commands of one programmed word (47_bbram.md R163, R164). -/
def Seq.programWord (f : Family) (len : Nat) (key : Vector Byte 32) (v : Seq) (k : Fin 8) : Seq :=
  ((v.loadIr len (Config.deviceOpcode .iscProgram f)).drScan 32 (keyWord key k).toNat false).idleFor Config.bbramProgramIdle

/-- The fixed sequence of BBRAM_PROGRAM (47_bbram.md R163). -/
def bbramProgramSeq (f : Family) (len : Nat) (key : Vector Byte 32) : Seq :=
  (List.finRange 8).foldl (Seq.programWord f len key)
    ((((Seq.empty.tlr.iscEnable f len).loadIr len (Config.deviceOpcode .iscProgramKey f)).drScanFill
      Config.bbramProgramKeyBits true false).idleFor Config.bbramProgramKeyIdle)

/-- The check that a key is loaded (47_bbram.md R163, R165). -/
def withKey (body : State → State) (s : State) : State :=
  if s.key.loaded then body s else takeFault .keyNotLoaded s

/-- BBRAM_PROGRAM (47_bbram.md R163); a key scan longer than one shift faults as `AddShift` does (42_sequence_builder.md R112;
notes/assumptions/13.md). -/
def execBbramProgram (s : State) : Step :=
  protocolOperation (fun f len => withKey fun s =>
    if Config.bbramProgramKeyBits > Config.maxShiftBits then takeFault .shiftTooLong s
    else afterFixed (bbramProgramSeq f len s.key.bytes) (complete .nothing) s) s

/-! ## BBRAM_VERIFY -/

/-- The commands of one read word (47_bbram.md R165). -/
def Seq.readWord (f : Family) (len : Nat) (v : Seq) (_k : Fin 8) : Seq :=
  ((v.loadIr len (Config.deviceOpcode .iscRead f)).drScanFill Config.bbramReadBits false true).idleFor Config.bbramReadIdle

/-- The fixed sequence of BBRAM_VERIFY (47_bbram.md R165), with no `TLR` (R169). -/
def bbramVerifySeq (f : Family) (len : Nat) : Seq :=
  (List.finRange 8).foldl (Seq.readWord f len) (Seq.empty.iscEnable f len)

/-- The capture buffer of read `k`: after the opcode and payload of ISC_ENABLE and the opcode of each ISC_READ. -/
def bbramCaptureHandle (k : Nat) : Nat := 3 + 2 * k

/-- `READKEY` and `READKEY_STATUS` from the captures (47_bbram.md R165). -/
def captureReadback (s : State) : Readback :=
  { words := Vector.ofFn fun k => scanWord (pseqStream (bbramCaptureHandle k.val) Config.bbramReadBits s)
    status := Vector.ofFn fun k => scanStatus (pseqStream (bbramCaptureHandle k.val) Config.bbramReadBits s) }

/-- The lowest word whose status is not ready (47_bbram.md R167). -/
def firstNotReady (r : Readback) : Option (Fin 8) :=
  (List.finRange 8).find? fun k => decide (r.status[k.val] ≠ Config.bbramReady)

/-- The lowest word that differs from the key's (47_bbram.md R165, R166). -/
def firstMismatch (key : Vector Byte 32) (r : Readback) : Option (Fin 8) :=
  (List.finRange 8).find? fun k => decide (r.words[k.val] ≠ keyWord key k)

/-- The checks of BBRAM_VERIFY, in the order status, data, CRC (60_exceptions.md R178). -/
def checkReadback (key : KeyRegs) (r : Readback) : Option ErrorCode :=
  match firstNotReady r with
  | some k => some (.notReady k.val)
  | none => match firstMismatch key.bytes r with
    | some k => some (.dataMismatch k.val)
    | none => if key.crcValid ∧ Config.bbramCrcFn r.words ≠ key.crc then some .crcMismatch else none

/-- BBRAM_VERIFY after its sequence (47_bbram.md R165). -/
def finishVerify (s : State) : State :=
  let t := s.withReadback (captureReadback s)
  match checkReadback t.key t.readback with
  | some e => raiseError e t
  | none => complete .nothing t

/-- BBRAM_VERIFY (47_bbram.md R165). -/
def execBbramVerify (s : State) : Step :=
  protocolOperation (fun f len => withKey fun s => afterFixed (bbramVerifySeq f len) finishVerify s) s

/-! ## KEY_READBACK -/

/-- KEY_READBACK (47_bbram.md R170). -/
def execKeyReadback (s : State) : Step :=
  operation (fun s => complete (.readback s.readback.words s.readback.status) s) s

end Sys2Proof.Machine
end

