-- ==== Sys2Proof/Machine/Discovery.lean ====
section
/-! DEFINITION. Scan-chain discovery (44_discovery.md). -/

namespace Sys2Proof.Machine

open Sys2Proof

/-- `c[31 : 0]` of a captured stream, bit 0 first (44_discovery.md R133). -/
def chainWord (c : List Bool) : BitVec 32 := BitVec.ofNat 32 (bitsNat (c.take 32))

/-- `Decode` (44_discovery.md R133) with room for `left` more entries: the entries, or `none` when it fails. The sentinel test
comes before the leading-bit test. -/
def decodeChain (dummy : BitVec 32) : Nat → List Bool → Option (List IdEntry)
  | 0, c => if c.length < 32 then none else if chainWord c = dummy then some [] else none
  | left + 1, c =>
    if c.length < 32 then none
    else if chainWord c = dummy then some []
    else if c.headD false then (decodeChain dummy left (c.drop 32)).map (IdEntry.idCode (chainWord c) :: ·)
    else (decodeChain dummy left (c.drop 1)).map (IdEntry.bypass :: ·)

/-- The TDI stream: `MAX_TAPS + 1` dummy words, LSB first (44_discovery.md R131). -/
def dummyStream (dummy : BitVec 32) (maxTaps : Nat) : List Bool :=
  (List.replicate (maxTaps + 1) (natBits 32 dummy.toNat)).flatten

/-- The node of an entry (44_discovery.md R129, R137). -/
def nodeOf (i : Nat) : IdEntry → Node
  | .idCode v => { kind := .idcode, idcode := v, irLength := 0#8, ordinal := BitVec.ofNat 8 i, active := false }
  | .bypass => { kind := .bypass, idcode := 0#32, irLength := 0#8, ordinal := BitVec.ofNat 8 i, active := false }

/-- `CHAIN` of a decoded list, ordinals from `i` on (44_discovery.md R134). -/
def chainOf : Nat → List IdEntry → List Node
  | _, [] => []
  | i, e :: rest => nodeOf i e :: chainOf (i + 1) rest

/-- The four pads 0 and no target (44_discovery.md R132). -/
def Port.cleared (p : Port) : Port :=
  { p with irPre := 0#16, irPost := 0#16, drPre := 0#16, drPost := 0#16, target := 0xFF#8 }

/-- The scan of DETECT_TAPS (44_discovery.md R129, R130): `Reset`, `ShiftDR`, the dummy words, `Idle`. -/
def discoveryScan (s : State) : List Bool × State :=
  let s1 := navigateTo .shiftDR (navigateTo .reset (s.withPort s.port.cleared))
  let r := shiftEngine .dr (dummyStream Config.dummyId Config.maxTaps) .idle s1
  (r.1, if r.2.port.cur ≠ .idle then navigateTo .idle r.2 else r.2)

/-- DETECT_TAPS (44_discovery.md R129). -/
def execDetectTaps (s : State) : Step :=
  operation (fun s =>
    let r := discoveryScan s
    match decodeChain Config.dummyId Config.maxTaps r.1 with
    | none => raiseError .tooManyTaps ((r.2.withIdList []).withChain [])
    | some l => complete (.idList l) ((r.2.withIdList l).withChain (chainOf 0 l))) s

end Sys2Proof.Machine
end

