-- ==== Sys2Proof/Machine/Identity.lean ====
section
/-! DEFINITION. Port set-up, device identity and target selection (45_identity.md). -/

namespace Sys2Proof.Machine

open Sys2Proof

/-! ## PORT_INIT -/

/-- `ResetRegisters()`: every register but `FAULT` at the value of 70_reset_and_hazards.md R198, the pin latches left to the
writes that follow, `KEY` and `KEY_CRC` free (notes/assumptions/4.md); the host's queue, the trace and the environment are not
the block's registers and stay. -/
def resetRegisters (s : State) : State :=
  { State.reset with
    pins := s.pins
    key := { bytes := Config.keyAfterInit s.trace, crc := Config.keyCrcAfterInit s.trace, crcValid := false, loaded := false }
    fault := s.fault
    hostQueue := s.hostQueue
    trace := s.trace
    env := s.env }

/-- The output pins to their idle levels (45_identity.md R139). -/
def idlePins (s : State) : State :=
  pinWrite .hwmStart false (pinWrite .tdi false (pinWrite .tms true (pinWrite .tck false s)))

/-- `PortInit` after its checks (45_identity.md R139). -/
def portInitEffect (m : PinMap) (s : State) : State :=
  let s1 := resetRegisters s
  let s2 := idlePins (s1.withPort { s1.port with pinmap := m, init := true })
  navigateTo .reset (s2.setCur .reset)

/-- PORT_INIT (45_identity.md R139). -/
def execPortInit (m : PinMap) (s : State) : Step :=
  unlessFaulted (fun s =>
    if pinMapLegal Config.gpioCount m then complete .nothing (portInitEffect m s)
    else raiseError .badPinAssignment s) s

/-! ## IDENTIFY -/

/-- `Lookup(id)` (45_identity.md R140): the first row whose 28 bits match. -/
def lookupDevice (table : List DeviceRow) (id : BitVec 32) : Option DeviceRow :=
  table.find? fun r => decide (r.id28 = (id &&& Config.idMask).extractLsb' 0 28)

/-- The identity registers of a row. -/
def Port.identify (p : Port) (r : DeviceRow) : Port :=
  { p with family := some r.family, irLen := r.irLength, segments := r.segments, masterSeg := r.masterSegment }

/-- The identity registers cleared. -/
def Port.unidentify (p : Port) : Port := { p with family := none, irLen := 0#8, segments := 0#8, masterSeg := 0#8 }

/-- IDENTIFY (45_identity.md R140); on a miss it returns `None` beside the error. -/
def execIdentify (idCode : Nat) (s : State) : Step :=
  operation (withinWidths [(idCode, 32)] fun s =>
    match lookupDevice Config.deviceTable (BitVec.ofNat 32 idCode) with
    | none => (raiseError .unknownDevice (s.withPort s.port.unidentify)).withReturned (.identity none)
    | some r => complete (.identity (some r)) (s.withPort (s.port.identify r))) s

/-! ## SET_PADS and SELECT_TARGET -/

/-- The pad registers. -/
def Port.setPads (p : Port) (a b c d : Nat) : Port :=
  { p with irPre := BitVec.ofNat 16 a, irPost := BitVec.ofNat 16 b, drPre := BitVec.ofNat 16 c, drPost := BitVec.ofNat 16 d }

/-- SET_PADS (45_identity.md R142). -/
def execSetPads (a b c d : Nat) (s : State) : Step :=
  operation (withinWidths [(a, 16), (b, 16), (c, 16), (d, 16)] fun s =>
    complete .nothing (s.withPort (s.port.setPads a b c d))) s

/-- `r_i` of a chain node (45_identity.md R143). -/
def rowOf (table : List DeviceRow) (n : Node) : Option DeviceRow :=
  match n.kind with
  | .idcode => lookupDevice table n.idcode
  | .bypass => none

/-- The rows of every node, if every node has one. -/
def rowsOf (table : List DeviceRow) : List Node → Option (List DeviceRow)
  | [] => some []
  | n :: rest =>
    match rowOf table n, rowsOf table rest with
    | some r, some rs => some (r :: rs)
    | _, _ => none

/-- The IR lengths of rows, summed. -/
def irSum (rows : List DeviceRow) : Nat := (rows.map fun r => r.irLength.toNat).sum

/-- `CHAIN` after SELECT_TARGET: IR lengths from the rows, `active` on the target (45_identity.md R143). -/
def markChain (t : Nat) : Nat → List Node → List DeviceRow → List Node
  | i, n :: ns, r :: rs => { n with irLength := r.irLength, active := decide (i = t) } :: markChain t (i + 1) ns rs
  | _, ns, [] => ns
  | _, [], _ => []

/-- SELECT_TARGET after its lookups: the pads, which fault when they do not fit (00_scope.md R15; notes/assumptions/23.md), then
every register it writes. -/
def selectEffect (t : Nat) (r : DeviceRow) (rows : List DeviceRow) (s : State) : State :=
  let irPre := irSum (rows.take t)
  let irPost := irSum (rows.drop (t + 1))
  let drPost := rows.length - 1 - t
  if fitAll [(irPre, 16), (irPost, 16), (t, 16), (drPost, 16)] then
    complete .nothing ((s.withChain (markChain t 0 s.chain rows)).withPort
      { (s.port.setPads irPre irPost t drPost).identify r with target := BitVec.ofNat 8 t })
  else takeFault .valueTooWide s

/-- SELECT_TARGET (45_identity.md R143). -/
def execSelectTarget (t : Nat) (s : State) : Step :=
  operation (withinWidths [(t, 8)] fun s =>
    match s.chain[t]? with
    | none => raiseError .noSuchTap s
    | some n => match rowOf Config.deviceTable n with
      | none => raiseError .unknownDevice s
      | some r => match rowsOf Config.deviceTable s.chain with
        | none => raiseError .unknownIrLength s
        | some rows => selectEffect t r rows s) s

end Sys2Proof.Machine
end

