-- ==== Sys2Proof/Machine/Dispatch.lean ====
section
/-! DEFINITION. The meaning of every instruction, one arm per row of the opcode table. -/

namespace Sys2Proof.Machine

open Sys2Proof

def exec (i : Instr) (s : State) : Host.Outcome State Fault Refusal :=
  match i with
  | .setState st idle => Sys2Proof.Machine.execSetState st idle s
  | .shiftDr n tdi tdo ex => Sys2Proof.Machine.execShiftDr n tdi tdo ex s
  | .shiftIr n tdi tdo ex => Sys2Proof.Machine.execShiftIr n tdi tdo ex s
  | .portInit m => Sys2Proof.Machine.execPortInit m s
  | .navigate target => Sys2Proof.Machine.execNavigate target s
  | .pulse count => Sys2Proof.Machine.execPulse count s
  | .shift dir n tdi capture ex => Sys2Proof.Machine.execShift dir n tdi capture ex s
  | .seqCreate node => Sys2Proof.Machine.execSeqCreate node s
  | .seqAddState q st idle => Sys2Proof.Machine.execSeqAddState q st idle s
  | .seqAddShift q flags n wi wo ex => Sys2Proof.Machine.execSeqAddShift q flags n wi wo ex s
  | .seqClear q => Sys2Proof.Machine.execSeqClear q s
  | .seqDelete q => Sys2Proof.Machine.execSeqDelete q s
  | .bufWrite q h o bytes => Sys2Proof.Machine.execBufWrite q h o bytes s
  | .bufRead q h o n => Sys2Proof.Machine.execBufRead q h o n s
  | .seqRun q => Sys2Proof.Machine.execSeqRun q s
  | .detectTaps => Sys2Proof.Machine.execDetectTaps s
  | .identify idCode => Sys2Proof.Machine.execIdentify idCode s
  | .setPads a b c d => Sys2Proof.Machine.execSetPads a b c d s
  | .selectTarget t => Sys2Proof.Machine.execSelectTarget t s
  | .jprogram => Sys2Proof.Machine.execJprogram s
  | .efuseProgramRow row bit page red => Sys2Proof.Machine.execEfuseProgramRow row bit page red s
  | .efuseReadRow row page red => Sys2Proof.Machine.execEfuseReadRow row page red s
  | .keyLoad kb cv crc => Sys2Proof.Machine.execKeyLoad kb cv crc s
  | .bbramProgram => Sys2Proof.Machine.execBbramProgram s
  | .bbramVerify => Sys2Proof.Machine.execBbramVerify s
  | .keyReadback => Sys2Proof.Machine.execKeyReadback s

end Sys2Proof.Machine
end

