-- ==== Sys2Proof/Machine/Fetch.lean ====
section
/-! DEFINITION. Where the next instruction comes from: the command at `EXEC.PC` during a run (10_state.md R38), else the oldest
host record (60_exceptions.md R196; notes/assumptions/1.md, 2.md); and the faults of a record that the decoder refuses (R178). -/

namespace Sys2Proof.Machine

open Sys2Proof

/-- What a step of an unfaulted block finds. -/
inductive Fetched where
  /-- `EXEC.SEQ` names no live sequence. -/
  | lost
  /-- `EXEC.PC` is at the end of the sequence. -/
  | runEnd
  /-- The command word at `EXEC.PC`. -/
  | command (w : Word64)
  /-- The oldest host record, and the records after it. -/
  | host (record : List Byte) (rest : List (List Byte))
  /-- No run and no record: the block does nothing (60_exceptions.md R184). -/
  | idle
  deriving DecidableEq, Repr

/-- The sequence of the run in progress. Before PORT_INIT `EXEC.SEQ` is unspecified and is not read
(70_reset_and_hazards.md R197). -/
def State.activeRun (s : State) : Option Nat := if s.port.init then s.exec.seq else none

/-- The fetch. -/
def fetch (s : State) : Fetched :=
  match s.activeRun with
  | some q => match s.seqAt q with
    | none => .lost
    | some v => match v.cmds[s.exec.pc]? with
      | none => .runEnd
      | some w => .command w
  | none => match s.hostQueue with
    | [] => .idle
    | r :: rest => .host r rest

/-- After a command of a run, `EXEC.PC` advances (43_executor.md R118). -/
def advanceRun : Step → Step
  | .next t => .next (advancePc t)
  | .fault r => .fault r
  | .refused r => .refused r

/-- The fault of a record whose argument bytes the decoder refuses, after the checks that come before operand widths: the sequence
handle of 42_sequence_builder.md R109, when the record holds it whole, and the target of 46_efuse.md R146 (notes/assumptions/6.md,
7.md). -/
def refuseArguments (op : Byte) (args : List Byte) (r : FaultReason) (s : State) : State :=
  match op.toNat, takeNum op args with
  | 0x11, .ok (q, _) => withOpenSeq q (fun _ => takeFault r) s
  | 0x12, .ok (q, _) => withOpenSeq q (fun _ => takeFault r) s
  | 0x15, .ok (q, _) => withSeq q (fun _ => takeFault r) s
  | 0x16, .ok (q, _) => withSeq q (fun _ => takeFault r) s
  | 0x31, _ => withTarget (fun _ _ => takeFault r) (s.withPseq Seq.empty)
  | 0x32, _ => withTarget (fun _ _ => takeFault r) (s.withPseq Seq.empty)
  | _, _ => takeFault r s

/-- The fault of a host record the decoder refuses, in the order of 60_exceptions.md R178: `UnknownOp`, then `NotInitialised` (but for
PORT_INIT), then the checks of its operation (notes/assumptions/6.md). -/
def refuseRecord (record : List Byte) (e : DecodeError) (s : State) : State :=
  let late (op : Byte) (r : FaultReason) : State :=
    if op = 0x01#8 then takeFault r s
    else if s.port.init = false then takeFault .notInitialised s
    else refuseArguments op record.tail r s
  match e with
  | .unknownOp _ => takeFault .unknownOp s
  | .truncated op => late op .badArgument
  | .operandTooWide op => late op .valueTooWide
  | .reservedBits => takeFault .badCommand s
  | .strayField => takeFault .badCommand s

/-- A faulted block takes the next host record without effect (60_exceptions.md R176). -/
def stuckStep (s : State) : State := stuck (s.withHostQueue s.hostQueue.tail)

/-- A sequence that holds one command word (for `State.withFetchWord`). -/
def oneCommand (w : Word64) : Seq := { Seq.empty with cmds := [w], consumed := true }

/-- The state in which the next fetch finds an encoded instruction: a record at the head of the host's queue and no run, or, in an
initialised block, a run of handle 0 whose only command is the word. -/
def placeInstr (e : Encoded) (s : State) : State :=
  match e with
  | .hostOp bs => (s.withHostQueue (bs :: s.hostQueue)).setExecSeq none
  | .command w =>
    ((s.withPort { s.port with init := true }).setSeq 0 (oneCommand w)).withExec { s.exec with seq := some 0, pc := 0 }

end Sys2Proof.Machine
end

