-- ==== Sys2Proof/Machine/Step.lean ====
section
/-! DEFINITION. One step of the machine: one host operation, or one command of a run (60_exceptions.md R196;
notes/assumptions/1.md). -/

namespace Sys2Proof.Machine

open Sys2Proof

/-- One step. A faulted block is stuck (60_exceptions.md R176); during a run the executor's next command runs, and at the end of
the sequence the run ends (43_executor.md R118); otherwise the oldest host record runs, and with none the block does nothing
(60_exceptions.md R184). -/
def step (s : State) : Host.Outcome State Fault Refusal :=
  if s.fault.isSome then .next (stuckStep s)
  else match fetch s with
    | .lost => .fault .lostSequence
    | .runEnd => .next (endRun s)
    | .command w => match decodeCommand w with
      | .error _ => .next (takeFault .badCommand s)
      | .ok i => advanceRun (exec i s)
    | .host record rest => match decodeHostOp record with
      | .error e => .next (refuseRecord record e (s.withHostQueue rest))
      | .ok (i, _) => exec i (s.withHostQueue rest)
    | .idle => .next s

/-- `s` with a table row's instruction placed where `step` fetches (notes/assumptions/2.md). -/
def State.withFetchWord (s : State) (nbits w : Nat) : State := placeInstr (tableEncoded nbits w) s

end Sys2Proof.Machine
end

