-- ==== Sys2Proof/Safety.lean ====
section
/-! DEFINITION. The terms claims use: what a trace shows (20_memory.md R62), TCK pulse counts (43_executor.md R123), what an
operation may leave changed, and the invariants of the block. -/

namespace Sys2Proof

/-- A host operation, not a command (00_scope.md R21). -/
def Instr.isHostOp : Instr → Bool
  | .setState _ _ => false
  | .shiftDr _ _ _ _ => false
  | .shiftIr _ _ _ _ => false
  | _ => true

/-- `SHIFT.DR` or `SHIFT.IR`. -/
def Instr.shiftCommand (dir : Dir) (n : Nat) (tdi : TdiSource) (tdo : Option Nat) (exit : TapState) : Instr :=
  match dir with
  | .dr => .shiftDr n tdi tdo exit
  | .ir => .shiftIr n tdi tdo exit

end Sys2Proof

namespace Sys2Proof.Machine

open Sys2Proof

/-! ## Reading a trace (newest event first) -/

/-- The TCK pulses of a trace: its rising TCK writes. -/
def pulses : List Event → Nat
  | [] => 0
  | .write .tck _ true :: rest => pulses rest + 1
  | .write _ _ _ :: rest => pulses rest
  | .read _ _ _ :: rest => pulses rest
  | .timer _ :: rest => pulses rest

/-- The levels written to an output pin, newest first. -/
def writesOf (p : OutPin) : List Event → List Bool
  | [] => []
  | .write q _ b :: rest => if q = p then b :: writesOf p rest else writesOf p rest
  | .read _ _ _ :: rest => writesOf p rest
  | .timer _ :: rest => writesOf p rest

/-- The levels read from an input pin, newest first. -/
def readsOf (p : InPin) : List Event → List Bool
  | [] => []
  | .read q _ b :: rest => if q = p then b :: readsOf p rest else readsOf p rest
  | .write _ _ _ :: rest => readsOf p rest
  | .timer _ :: rest => readsOf p rest

/-- The timer readings, newest first. -/
def timersOf : List Event → List (BitVec 64)
  | [] => []
  | .timer t :: rest => t :: timersOf rest
  | .write _ _ _ :: rest => timersOf rest
  | .read _ _ _ :: rest => timersOf rest

/-- `bits` are the levels `p` was driven to between two states, oldest first. -/
def drove (p : OutPin) (s t : State) (bits : List Bool) : Prop :=
  writesOf p t.trace = bits.reverse ++ writesOf p s.trace

/-- `bits` are the levels sampled on `p` between two states, oldest first. -/
def sampledBits (p : InPin) (s t : State) (bits : List Bool) : Prop :=
  readsOf p t.trace = bits.reverse ++ readsOf p s.trace

/-- `k` TCK pulses separate two states. -/
def pulsed (s t : State) (k : Nat) : Prop := pulses t.trace = pulses s.trace + k

/-- Everything the first state's trace holds, the second's holds too (43_executor.md R125). -/
def traceGrows (s t : State) : Prop := ∃ new, t.trace = new ++ s.trace

/-! ## What an operation may leave changed -/

/-- `t` with the fields that clocking writes (pins, `PORT.CUR`, trace, environment) and the outcome fields (`RESULT`, the returned
values) taken from `s`. -/
def undrive (s t : State) : State :=
  ((((((t.setCur s.port.cur).withPins s.pins).withTrace s.trace).withEnv s.env).withResult s.result).withReturned s.returned)

/-- `t` with the buffers and the executor registers of `s`. -/
def rebuffer (s t : State) : State := ((t.withSeqs s.seqs).withPseq s.pseq).withExec s.exec

/-- `t` with the outcome fields taken from `s`. -/
def unreport (s t : State) : State := (t.withResult s.result).withReturned s.returned

/-! ## Clock counts (40_navigator.md R94, 41_shift_engine.md R104, 43_executor.md R123) -/

/-- The pulses of a walk of the Navigator. -/
def walkPulses (a b : TapState) : Nat := if b = .reset then 5 else (navEntry a b).count

/-- The pulses of the walk that precedes a SHIFT command: none when already in the shift state. -/
def enterPulses (cur : TapState) (dir : Dir) : Nat := if cur = dir.shiftState then 0 else walkPulses cur dir.shiftState

/-- The pulses of the walk that follows a SHIFT command. -/
def leavePulses (dir : Dir) (exit : TapState) : Nat :=
  if exit = dir.shiftState ∨ exit = dir.exit1State then 0 else walkPulses dir.exit1State exit

/-- The bits of a padded shift. -/
def paddedBits (p : Port) (dir : Dir) (n : Nat) : Nat := p.prePad dir + n + p.postPad dir

/-- The pulses of a command word from state `cur`, and the state it leaves. -/
def commandPulses (p : Port) (cur : TapState) (w : Word64) : Nat × TapState :=
  match decodeCommand w with
  | .ok (.setState st idle) => (walkPulses cur st + idle, st)
  | .ok (.shiftDr n _ _ exit) => (enterPulses cur .dr + paddedBits p .dr n + leavePulses .dr exit, exit)
  | .ok (.shiftIr n _ _ exit) => (enterPulses cur .ir + paddedBits p .ir n + leavePulses .ir exit, exit)
  | _ => (0, cur)

/-- The pulses of a run, the sum over its commands. -/
def runPulses (p : Port) : TapState → List Word64 → Nat
  | _, [] => 0
  | cur, w :: rest => (commandPulses p cur w).1 + runPulses p (commandPulses p cur w).2 rest

/-! ## TMS bits (40_navigator.md R91, R92, 41_shift_engine.md R102, 43_executor.md R122) -/

/-- The last level of a run of writes, or the level before it. -/
def lastLevel (before : Bool) (bits : List Bool) : Bool := (bits.getLast?).getD before

/-- The TMS bits of a navigation (40_navigator.md R91, R92). -/
def navBits (a b : TapState) : List Bool :=
  if b = .reset then List.replicate 5 true else if b = a then [] else (navEntry a b).walk

/-- The TMS bits of a shift of `n` bits: 0 but on the last clock when leaving (41_shift_engine.md R102). -/
def shiftTms (leave : Bool) : Nat → List Bool
  | 0 => []
  | n + 1 => (leave && decide (n = 0)) :: shiftTms leave n

/-- The TMS bits of a SHIFT command: the walk in, the shift, the walk out (43_executor.md R122). -/
def commandTms (p : Port) (dir : Dir) (n : Nat) (exit : TapState) : List Bool :=
  (if p.cur = dir.shiftState then [] else navBits p.cur dir.shiftState) ++
    shiftTms (decide (exit ≠ dir.shiftState)) (paddedBits p dir n) ++
    (if exit = dir.shiftState ∨ exit = dir.exit1State then [] else navBits dir.exit1State exit)

/-- The TMS bits of a command word from state `p.cur` (43_executor.md R121, R122). -/
def wordTms (p : Port) (w : Word64) : List Bool :=
  match decodeCommand w with
  | .ok (.setState st idle) => navBits p.cur st ++ List.replicate idle (decide (st = .reset))
  | .ok (.shiftDr n _ _ exit) => commandTms p .dr n exit
  | .ok (.shiftIr n _ _ exit) => commandTms p .ir n exit
  | _ => []

/-- The TMS bits of a run that starts in a state. -/
def runTms (p : Port) : TapState → List Word64 → List Bool
  | _, [] => []
  | cur, w :: rest => wordTms (p.withCur cur) w ++ runTms p (commandPulses p cur w).2 rest

/-- The state a run leaves: its last command's. -/
def runEnd (p : Port) (cur : TapState) (words : List Word64) : TapState :=
  words.foldl (fun c w => (commandPulses p c w).2) cur

/-- The TMS bits of a scan of `bits` bits that ends in `Idle`: the walk in, the shift, the walk from the Exit1 state. -/
def scanTms (walkIn : List Bool) (bits : Nat) : List Bool :=
  walkIn ++ List.replicate (bits - 1) false ++ [true] ++ [true, false]

/-- The walks to the shift states that the protocol layer takes (30_encoding.md R78). -/
def resetToShiftIr : List Bool := [false, true, true, false, false]
def idleToShiftIr : List Bool := [true, true, false, false]
def idleToShiftDr : List Bool := [true, false, false]

/-! ## TDI bits of the protocol layer (46_efuse.md R147, 30_encoding.md R86) -/

/-- What a padded scan of the low `n` bits of a value drives on TDI. -/
def scanBits (p : Port) (dir : Dir) (n v : Nat) : List Bool := paddedStream p dir (natBits n v)

/-- What loading a device instruction drives on TDI. -/
def irBits (p : Port) (op : DeviceOp) (f : Family) : List Bool := scanBits p .ir p.irLen.toNat (Config.deviceOpcode op f)

/-- `IR_PRE + IR_POST`, `p` of 46_efuse.md R160. -/
def Port.irPads (p : Port) : Nat := p.irPre.toNat + p.irPost.toNat

/-- `DR_PRE + DR_POST`, `d` of 46_efuse.md R160. -/
def Port.drPads (p : Port) : Nat := p.drPre.toNat + p.drPost.toNat

/-- The bits of an entry as the chain presents them (44_discovery.md R129). -/
def IdEntry.bits : IdEntry → List Bool
  | .idCode v => natBits 32 v.toNat
  | .bypass => [false]

/-- The entry a reference TAP presents after a reset (60_exceptions.md R191). -/
def Tap.entry (t : Tap) : IdEntry :=
  match t.id with
  | some v => .idCode v
  | none => .bypass

/-- The `n` TDO samples that `after` later samples follow, oldest first. -/
def samplesBefore (t : State) (after n : Nat) : List Bool := (((readsOf .tdo t.trace).drop after).take n).reverse

/-- The clocks of one read word of BBRAM_VERIFY (47_bbram.md R171). -/
def readWordClocks (p : Port) : Nat := (4 + p.irPads + p.irLen.toNat + 2) + (3 + p.drPads + 37 + 2) + 1

/-- Byte `j` of the read-back key (47_bbram.md R166). -/
def Readback.byte (r : Readback) (j : Fin 32) : Byte := (r.words[j.val / 4]'(by omega)).extractLsb' (24 - 8 * (j.val % 4)) 8

/-- The events of one clock cycle that does not drive TDI, oldest first (40_navigator.md R90). -/
def undrivenCycle (m : PinMap) (tms sample : Bool) : List Event :=
  [.write .tms m.tms tms, .write .tck m.tck true, .read .tdo m.tdo sample, .write .tck m.tck false]

/-- The writes that park the output pins at PORT_INIT, oldest first (45_identity.md R139). -/
def parkingWrites (m : PinMap) : List Event :=
  [.write .tck m.tck false, .write .tms m.tms true, .write .tdi m.tdi false, .write .hwmStart m.hwmStart false]

/-- The Port registers after PORT_INIT (70_reset_and_hazards.md R198). -/
def freshPort (m : PinMap) : Port where
  init := true
  cur := .reset
  irPre := 0#16
  irPost := 0#16
  drPre := 0#16
  drPost := 0#16
  irLen := 0#8
  segments := 0#8
  masterSeg := 0#8
  family := none
  target := 0xFF#8
  pinmap := m

/-- How often the fuse-blow module has been asked to start. -/
def fuseStarts (t : List Event) : Nat := (writesOf .hwmStart t).count true

/-! ## Legal words (30_encoding.md R75) -/

/-- 30_encoding.md R75 read on the bits of a word and the pool of its sequence. -/
def legalBits (pool : List Memory) (w : Word64) : Bool :=
  let live (h n : Nat) : Bool := match pool[h]? with
    | some m => decide ((n + 7) / 8 ≤ m.size)
    | none => false
  let n := (w.toNat / 2 ^ 9) % 2 ^ 23
  let t := (w.toNat / 2 ^ 32) % 2 ^ 16
  let q := w.toNat / 2 ^ 48
  if w.getLsbD 0 then
    decide (1 ≤ n) && (w.getLsbD 2 || decide (t = 0)) && (w.getLsbD 3 || decide (q = 0)) &&
      (!w.getLsbD 2 || (!w.getLsbD 4 && live t n)) && (!w.getLsbD 3 || live q n)
  else
    decide ((w.toNat / 2 ^ 5) % 2 ^ 3 = 0) && decide (w.toNat / 2 ^ 40 = 0) &&
      (decide ((w.toNat / 2 ^ 8) % 2 ^ 32 = 0) || (tapStateOf (w.extractLsb' 1 4)).stable)

/-- Every command of a sequence is legal for it. -/
def Seq.legal (v : Seq) : Bool := v.cmds.all (legalBits v.pool)

/-! ## Invariants -/

/-- The handles of `SEQS` rise from `low` on and are 16-bit. -/
def handlesRise : Nat → List (Nat × Seq) → Bool
  | _, [] => true
  | low, (q, _) :: rest => decide (low ≤ q) && decide (q < Config.handleCount) && handlesRise (q + 1) rest

/-- Every buffer of every pool is in canonical form (notes/assumptions/19.md). -/
def State.memoryWf (s : State) : Bool :=
  (s.seqs.all fun e => e.2.pool.all Memory.wf) && s.pseq.pool.all Memory.wf

/-- The sequence table is well formed, no pool has more than 65536 buffers, and every sequence holds legal words only
(30_encoding.md R75, "the builder never creates an illegal word"). -/
def State.seqsLegal (s : State) : Bool :=
  handlesRise 0 s.seqs && (s.seqs.all fun e => e.2.legal && decide (e.2.pool.length ≤ Config.handleCount))

/-- Between operations TCK is low and the fuse-blow module is not asked to blow (40_navigator.md R90, 46_efuse.md R152). -/
def State.pinsParked (s : State) : Prop := s.port.init = true → s.pins.tck = false ∧ s.pins.hwmStart = false

/-- The pin map in use is a legal one (45_identity.md R139). -/
def State.pinMapUsable (s : State) : Prop := s.port.init = true → pinMapLegal Config.gpioCount s.port.pinmap = true

/-- The identity registers describe no device, or one a table row may describe (45_identity.md R141). -/
def State.identityConsistent (s : State) : Prop :=
  (s.port.family = none ∧ s.port.irLen = 0#8 ∧ s.port.segments = 0#8 ∧ s.port.masterSeg = 0#8) ∨
    (s.port.family ≠ none ∧ 1 ≤ s.port.irLen.toNat ∧ s.port.masterSeg.toNat < s.port.segments.toNat)

/-- The entry of `IDLIST` a chain node stands for. -/
def Node.entry (n : Node) : IdEntry :=
  match n.kind with
  | .idcode => .idCode n.idcode
  | .bypass => .bypass

/-- `CHAIN` lists the entries of `IDLIST` in order, at most `MAX_TAPS` of them, each with its index as ordinal, ID codes odd, and
only the node `PORT.TARGET` names is active (10_state.md R31, R32, 44_discovery.md R134, R135). -/
def State.chainConsistent (s : State) : Prop :=
  s.chain.map Node.entry = s.idList ∧ s.chain.length ≤ Config.maxTaps ∧
    ∀ k n, s.chain[k]? = some n →
      n.ordinal = BitVec.ofNat 8 k ∧ (n.kind = .idcode → n.idcode.getLsbD 0 = true) ∧ (n.kind = .bypass → n.idcode = 0#32) ∧
        (n.active = true ↔ s.port.target = BitVec.ofNat 8 k)

/-- A run in progress runs a live, consumed sequence, and `EXEC.PC` is within it (10_state.md R38, 43_executor.md R119). Before
PORT_INIT there is no run (70_reset_and_hazards.md R197). -/
def State.execLive (s : State) : Prop :=
  ∀ q, s.activeRun = some q → ∃ v, s.seqAt q = some v ∧ v.consumed = true ∧ s.exec.pc ≤ v.cmds.length

/-- A CRC is valid only beside a loaded key, and is 0 when not valid (47_bbram.md R161). -/
def State.keyConsistent (s : State) : Prop :=
  (s.key.crcValid = true → s.key.loaded = true) ∧ (s.key.loaded = true → s.key.crcValid = false → s.key.crc = 0#32)

/-- `RESULT` is `OK` or one of the words of 60_exceptions.md R172, an `info` being a word index. -/
def resultLegal (r : BitVec 32) : Prop :=
  r = okWord ∨ ∃ e : ErrorCode, r = e.word ∧ (∀ k, e = .notReady k → k < 8) ∧ (∀ k, e = .dataMismatch k → k < 8)

/-- The state before the first PORT_INIT (70_reset_and_hazards.md R197): any registers and levels, but not initialised and not
faulted. -/
def State.poweredOn (s : State) : Prop := s.port.init = false ∧ s.fault = none

/-- An operation can run: the block is initialised and not faulted. -/
def State.ready (s : State) : Prop := s.port.init = true ∧ s.fault = none

/-- A protocol operation can run (46_efuse.md R146): the block is ready and the target is an identified one-segment device. -/
def State.targeted (s : State) (f : Family) : Prop :=
  s.ready ∧ s.port.family = some f ∧ 1 ≤ s.port.irLen.toNat ∧ s.port.segments = 1#8

/-- A run: `k` steps, stopping at the first stop. -/
def steps : Nat → State → Step
  | 0, s => .next s
  | k + 1, s =>
    match step s with
    | .next t => steps k t
    | .fault r => .fault r
    | .refused r => .refused r

end Sys2Proof.Machine
end

