-- ==== Sys2Proof/Certificates/Slice0/Obligations.lean ====
section
/-! DEFINITION. What the provers are to prove of the model. -/

open Sys2Proof Sys2Proof.Machine

/-! ## Encoding and fetch -/

/-- Decoding an encoded well-formed instruction gives it back: 30_encoding.md R70 to R74 for the commands, R77 for the host
operations, whose argument bytes are the model's layout (DESIGN CHOICE, notes/assumptions/5.md). -/
def Obligations.DecodeEncode : Prop := ∀ i : Instr, i.wellFormed = true → decode (encode i) = .ok i

/-- A word the decoder accepts is the only word of its instruction: no bit of it is dropped (30_encoding.md R70 to R73). -/
def Obligations.CommandWordsCanonical : Prop :=
  ∀ (w : Word64) (i : Instr), decodeCommand w = .ok i → encode i = .command w

/-- During a run, the command at `EXEC.PC` runs without a fault and `EXEC.PC` advances when 30_encoding.md R75, read on the bits of
the word, holds; else the step takes `BadCommand` and changes nothing else. -/
def Obligations.IllegalWordsFault : Prop :=
  ∀ (s : State) (q : Nat) (v : Seq) (w : Word64), s.ready → s.exec.seq = some q → s.seqAt q = some v →
    v.cmds[s.exec.pc]? = some w →
      (legalBits v.pool w = true → ∃ t, step s = .next t ∧ t.fault = none ∧ t.exec.pc = s.exec.pc + 1 ∧ t.exec.seq = some q) ∧
        (legalBits v.pool w = false → step s = .next (takeFault .badCommand s))

/-- Words and records written out from 30_encoding.md R71, R72, R77 and the examples of 42_sequence_builder.md and 43_executor.md. -/
def Obligations.DecodeWords : Prop :=
  decodeCommand 0x0000000000000C02#64 = .ok (.setState .idle 12) ∧
    decodeCommand 0x0000000000000502#64 = .ok (.setState .idle 5) ∧
    decodeCommand 0x0000000000000C27#64 = .ok (.shiftIr 6 (.buf 0) none .idle) ∧
    decodeCommand 0x000100000000802D#64 = .ok (.shiftDr 64 (.buf 0) (some 1) .idle) ∧
    decodeTableWord 8 0x20 = some .detectTaps ∧ decodeTableWord 8 0x30 = some .jprogram

/-- A record with an opcode outside the table of 30_encoding.md R77 takes `UnknownOp`, before any other check (60_exceptions.md
R178 (2)), whether or not the block is initialised; before PORT_INIT whatever `EXEC.SEQ` holds (70_reset_and_hazards.md R197). -/
def Obligations.ReservedOpcodesFault : Prop :=
  ∀ (s : State) (op : Byte) (bs : List Byte) (rest : List (List Byte)), s.fault = none →
    s.exec.seq = none ∨ s.port.init = false →
    s.hostQueue = (op :: bs) :: rest →
      op.toNat ∉ [0x01, 0x02, 0x03, 0x04, 0x10, 0x11, 0x12, 0x13, 0x14, 0x15, 0x16, 0x17, 0x20, 0x21, 0x22, 0x23, 0x30, 0x31,
        0x32, 0x40, 0x41, 0x42, 0x43] →
      step s = .next (takeFault .unknownOp (s.withHostQueue rest))

/-- A step runs the decoded instruction: the oldest host record outside a run and before PORT_INIT (70_reset_and_hazards.md R197), the
command at `EXEC.PC` during one, after which `EXEC.PC` advances unless it faulted (10_state.md R38, 43_executor.md R118,
60_exceptions.md R196; one command a step is the model's choice, notes/assumptions/1.md). -/
def Obligations.StepRunsDecoded : Prop :=
  (∀ (s : State) (record left : List Byte) (rest : List (List Byte)) (i : Instr), s.fault = none →
    s.exec.seq = none ∨ s.port.init = false →
    s.hostQueue = record :: rest → decodeHostOp record = .ok (i, left) → step s = exec i (s.withHostQueue rest)) ∧
  (∀ (s : State) (q : Nat) (v : Seq) (w : Word64) (i : Instr), s.ready → s.exec.seq = some q → s.seqAt q = some v →
    v.cmds[s.exec.pc]? = some w → decodeCommand w = .ok i →
      ∃ t, exec i s = .next t ∧
        step s = .next (if t.fault.isSome then t else t.withExec { t.exec with pc := t.exec.pc + 1 }))

/-! ## Navigator -/

/-- The walks of the table: five ones to `Reset`; none from another state to itself; every other one does not pass through `Reset`, and
is the shortest, and the only shortest, way through the diagram of 10_state.md R24 that does not (30_encoding.md R78, R80). -/
def Obligations.NavigationTable : Prop :=
  ∀ a b : TapState,
    (navEntry a b).walk.length = (navEntry a b).count ∧ (navEntry a b).walk.foldl TapState.next a = b ∧
      (b = .reset → (navEntry a b).walk = [true, true, true, true, true]) ∧
      (b ≠ .reset → ∀ k, 0 < k → k < (navEntry a b).count → ((navEntry a b).walk.take k).foldl TapState.next a ≠ .reset) ∧
      (b ≠ .reset → ∀ bits : List Bool, bits.foldl TapState.next a = b →
        (∀ k, 0 < k → k < bits.length → (bits.take k).foldl TapState.next a ≠ .reset) →
          (navEntry a b).count ≤ bits.length ∧ (bits.length = (navEntry a b).count → bits = (navEntry a b).walk))

/-- NAVIGATE emits the TCK pulses of the table entry, TMS at its bits, and leaves `PORT.CUR` at the target; the `Reset` column
counts 5 and every other diagonal entry 0 (40_navigator.md R94). TDI and `HWM_START` keep their levels, and every register, buffer
byte and sequence its value. -/
def Obligations.Navigate : Prop :=
  (∀ (s : State) (b : TapState), s.ready → ∃ t, exec (.navigate b) s = .next t ∧
    pulsed s t (navEntry s.port.cur b).count ∧ t.port.cur = b ∧
    drove .tms s t (navEntry s.port.cur b).walk ∧ drove .tdi s t [] ∧ drove .hwmStart s t [] ∧
    t.pins.tdi = s.pins.tdi ∧ t.pins.hwmStart = s.pins.hwmStart ∧
    t.result = okWord ∧ t.returned = .nothing ∧ undrive s t = s) ∧
  (∀ a : TapState, (navEntry a .reset).count = 5) ∧ (∀ a : TapState, a ≠ .reset → (navEntry a a).count = 0)

/-- PULSE (40_navigator.md R95): `count` pulses holding TMS at the level that keeps the stable state, none for a count of 0 in any
state; `NotStable` for a positive count in an unstable state. A count over 32 bits is `ValueTooWide` (60_exceptions.md R176), before
that check of R95: the order is the model's choice (notes/assumptions/7.md). -/
def Obligations.Pulse : Prop :=
  ∀ (s : State) (count : Nat), s.ready →
    (count < 2 ^ 32 → count = 0 ∨ s.port.cur.stable = true → ∃ t, exec (.pulse count) s = .next t ∧
      pulsed s t count ∧ t.port = s.port ∧
      drove .tms s t (List.replicate count (decide (s.port.cur = .reset))) ∧ drove .tdi s t [] ∧ drove .hwmStart s t [] ∧
      t.pins.tdi = s.pins.tdi ∧ t.pins.hwmStart = s.pins.hwmStart ∧
      t.result = okWord ∧ t.returned = .nothing ∧ undrive s t = s) ∧
    (count < 2 ^ 32 → 0 < count → s.port.cur.stable = false → exec (.pulse count) s = .next (takeFault .notStable s)) ∧
    (2 ^ 32 ≤ count → exec (.pulse count) s = .next (takeFault .valueTooWide s))

/-! ## Shift engine -/

/-- The host operation SHIFT in the shift state of its direction (41_shift_engine.md R98 to R106): one clock for each pad bit and
each of the caller's bits, pads at 1 for IR and 0 for DR, TMS raised on the last clock exactly when the exit state is not the shift
state; the caller's samples, and only those, are returned; nothing but the pins, `PORT.CUR` and the results changes. -/
def Obligations.HostShift : Prop :=
  ∀ (s : State) (dir : Dir) (n : Nat) (tdi : TdiMode) (capture : Bool) (exit : TapState), s.ready →
    s.port.cur = dir.shiftState → 1 ≤ n → n ≤ Config.maxShiftBits →
    (∀ bytes, tdi = .buf bytes → (n + 7) / 8 ≤ bytes.length) →
    ∃ t samples, exec (.shift dir n tdi capture exit) s = .next t ∧
      pulsed s t (s.port.prePad dir + n + s.port.postPad dir) ∧
      samples.length = s.port.prePad dir + n + s.port.postPad dir ∧ sampledBits .tdo s t samples ∧
      drove .tdi s t (List.replicate (s.port.prePad dir) (decide (dir = .ir)) ++ tdi.bits n ++
        List.replicate (s.port.postPad dir) (decide (dir = .ir))) ∧
      drove .tms s t (List.replicate (s.port.prePad dir + n + s.port.postPad dir - 1) false ++ [decide (exit ≠ dir.shiftState)]) ∧
      drove .hwmStart s t [] ∧ t.pins.hwmStart = s.pins.hwmStart ∧
      t.port.cur = (if exit = dir.shiftState then dir.shiftState else dir.exit1State) ∧
      t.result = okWord ∧
      t.returned = .shiftOut (if capture then some (bitsBytes ((samples.drop (s.port.prePad dir)).take n)) else none)
        (decide (t.port.cur ≠ exit)) ∧
      undrive s t = s

/-- 41_shift_engine.md R107: with no pads and the loopback driver of 60_exceptions.md R193, a capturing SHIFT returns the TDI stream,
for every bit count; the unused high bits of its last byte are 0. -/
def Obligations.LoopbackShift : Prop :=
  ∀ (s : State) (b : Bench) (dir : Dir) (n : Nat) (tdi : TdiMode) (exit : TapState), s.ready →
    s.env.bench = some b → b.chain = none → s.port.prePad dir = 0 → s.port.postPad dir = 0 →
    s.port.cur = dir.shiftState → 1 ≤ n → n ≤ Config.maxShiftBits →
    (∀ bytes, tdi = .buf bytes → (n + 7) / 8 ≤ bytes.length) →
    ∃ t bytes needNav, exec (.shift dir n tdi true exit) s = .next t ∧ t.returned = .shiftOut (some bytes) needNav ∧
      bytesBits n bytes = tdi.bits n ∧ bytes.length = (n + 7) / 8 ∧
      ∀ k, n ≤ k → (bytes.getD (k / 8) 0#8).getLsbD (k % 8) = false

/-- The checks of SHIFT, in their order (41_shift_engine.md R98, R99, R106; the place of the last one is the model's choice,
notes/assumptions/8.md): each ends the operation with nothing else done. -/
def Obligations.ShiftChecks : Prop :=
  ∀ (s : State) (dir : Dir) (n : Nat) (tdi : TdiMode) (capture : Bool) (exit : TapState), s.ready →
    (s.port.cur ≠ dir.shiftState → exec (.shift dir n tdi capture exit) s = .next (takeFault .notInShiftState s)) ∧
    (s.port.cur = dir.shiftState → n = 0 →
      exec (.shift dir n tdi capture exit) s = .next (raiseError .zeroLengthShift s)) ∧
    (s.port.cur = dir.shiftState → Config.maxShiftBits < n →
      exec (.shift dir n tdi capture exit) s = .next (takeFault .shiftTooLong s)) ∧
    (∀ bytes, s.port.cur = dir.shiftState → 1 ≤ n → n ≤ Config.maxShiftBits → tdi = .buf bytes → bytes.length < (n + 7) / 8 →
      exec (.shift dir n tdi capture exit) s = .next (takeFault .badArgument s))

/-! ## Commands and runs -/

/-- SETSTATE (43_executor.md R121): the walk of the Navigator, then `IDLE` ticks holding the state; no register, sequence or buffer
byte but `PORT.CUR` changes, and `RESULT` does not. -/
def Obligations.SetStateCommand : Prop :=
  ∀ (s : State) (st : TapState) (idle : Nat), s.ready → idle < 2 ^ 32 → idle = 0 ∨ st.stable = true →
    ∃ t, exec (.setState st idle) s = .next t ∧ t.port.cur = st ∧
      pulsed s t ((navEntry s.port.cur st).count + idle) ∧
      drove .tms s t ((navEntry s.port.cur st).walk ++ List.replicate idle (decide (st = .reset))) ∧
      drove .tdi s t [] ∧ drove .hwmStart s t [] ∧ t.pins.tdi = s.pins.tdi ∧ t.pins.hwmStart = s.pins.hwmStart ∧
      t.result = s.result ∧ t.returned = s.returned ∧ undrive s t = s

/-- SHIFT.DR and SHIFT.IR (43_executor.md R122, 41_shift_engine.md R100, R105): the walk to the shift state unless there, the padded
shift of the source's bits, the walk from the Exit1 state when needed; the caller's samples go to stream bits 0 to n − 1 of buffer
`Q`, and every other bit of every buffer, every other sequence and every register but `PORT.CUR` and `EXEC.NEED_NAV` is unchanged. -/
def Obligations.ShiftCommand : Prop :=
  ∀ (s : State) (dir : Dir) (n : Nat) (tdi : TdiSource) (tdo : Option Nat) (exit : TapState), s.ready →
    s.memoryWf = true → handlesRise 0 s.seqs = true → 1 ≤ n → n < 2 ^ 23 →
    (∀ h, tdi = .buf h → h < 2 ^ 16 ∧ ∃ m, s.curSeq.pool[h]? = some m ∧ (n + 7) / 8 ≤ m.size) →
    (∀ h, tdo = some h → h < 2 ^ 16 ∧ ∃ m, s.curSeq.pool[h]? = some m ∧ (n + 7) / 8 ≤ m.size) →
    ∃ t samples, exec (Instr.shiftCommand dir n tdi tdo exit) s = .next t ∧ t.port.cur = exit ∧
      pulsed s t (enterPulses s.port.cur dir + paddedBits s.port dir n + leavePulses dir exit) ∧
      drove .tms s t (commandTms s.port dir n exit) ∧
      drove .tdi s t (paddedStream s.port dir (commandBits s.curSeq n tdi)) ∧
      sampledBits .tdo s t samples ∧ drove .hwmStart s t [] ∧ t.pins.hwmStart = s.pins.hwmStart ∧
      t.exec = { s.exec with needNav := decide (exit ≠ dir.shiftState ∧ exit ≠ dir.exit1State) } ∧
      t.curSeq = { s.curSeq with pool := t.curSeq.pool } ∧ t.curSeq.pool.length = s.curSeq.pool.length ∧
      (∀ h m, s.curSeq.pool[h]? = some m → ∃ m', t.curSeq.pool[h]? = some m' ∧ m'.size = m.size ∧
        ∀ i, m'.bitAt i = if tdo = some h ∧ i < n then
          samples.getD (enterPulses s.port.cur dir + s.port.prePad dir + i) false else m.bitAt i) ∧
      (∀ q, s.exec.seq ≠ some q → t.seqAt q = s.seqAt q) ∧ (s.exec.seq ≠ none → t.pseq = s.pseq) ∧
      t.result = s.result ∧ t.returned = s.returned ∧ undrive s (rebuffer s t) = s

/-- 43_executor.md R123: the TCK pulses of a SHIFT command, of a SETSTATE command, and of a run, the sum over its commands. -/
def Obligations.CommandPulses : Prop :=
  (∀ (s t : State) (dir : Dir) (n : Nat) (tdi : TdiSource) (tdo : Option Nat) (exit : TapState), s.ready →
    exec (Instr.shiftCommand dir n tdi tdo exit) s = .next t → t.fault = none →
      pulsed s t ((if s.port.cur = dir.shiftState then 0 else (navEntry s.port.cur dir.shiftState).count) +
        (s.port.prePad dir + n + s.port.postPad dir) +
        (if t.exec.needNav then (navEntry dir.exit1State exit).count else 0))) ∧
  (∀ (s t : State) (st : TapState) (idle : Nat), s.ready → exec (.setState st idle) s = .next t → t.fault = none →
    pulsed s t ((navEntry s.port.cur st).count + idle)) ∧
  (∀ (s t : State) (q : Nat) (v : Seq), s.ready → handlesRise 0 s.seqs = true → s.seqAt q = some v →
    exec (.seqRun q) s = .next t → t.fault = none → pulsed s t (runPulses s.port s.port.cur v.cmds))

/-- SEQ_RUN of an open sequence of legal words (43_executor.md R118, R119, R125): every command runs, with its TMS bits and its
pulses, and `PORT.CUR` ends where the last command leaves it; the sequence is left consumed with its words, node and buffer sizes, no
other sequence, no private buffer and no register of the Port but `PORT.CUR` changes, and no run is left in progress. -/
def Obligations.SeqRun : Prop :=
  ∀ (s : State) (q : Nat) (v : Seq), s.ready → handlesRise 0 s.seqs = true → s.seqAt q = some v → v.consumed = false →
    v.legal = true →
    ∃ t v', exec (.seqRun q) s = .next t ∧ t.fault = none ∧ t.result = okWord ∧ t.returned = .nothing ∧
      t.exec.seq = none ∧ t.exec.pc = v.cmds.length ∧ pulsed s t (runPulses s.port s.port.cur v.cmds) ∧
      drove .tms s t (runTms s.port s.port.cur v.cmds) ∧ t.port.cur = runEnd s.port s.port.cur v.cmds ∧
      t.seqAt q = some v' ∧ v'.consumed = true ∧ v'.cmds = v.cmds ∧ v'.node = v.node ∧
      v'.pool.map Memory.size = v.pool.map Memory.size ∧
      (∀ k, k ≠ q → t.seqAt k = s.seqAt k) ∧ t.pseq = s.pseq ∧ drove .hwmStart s t [] ∧ traceGrows s t ∧
      undrive s (rebuffer s t) = s

/-- A run stops at its first illegal word with `BadCommand`, `EXEC.PC` at that word, the words before it having had their pulses, and
the sequence consumed (43_executor.md R118, R124, R125). -/
def Obligations.RunStopsAtIllegalWord : Prop :=
  ∀ (s : State) (q : Nat) (v : Seq) (before after : List Word64) (w : Word64), s.ready → handlesRise 0 s.seqs = true →
    s.seqAt q = some v → v.consumed = false → v.cmds = before ++ w :: after → before.all (legalBits v.pool) = true →
    legalBits v.pool w = false →
    ∃ t v', exec (.seqRun q) s = .next t ∧ t.fault = some .badCommand ∧ t.exec.seq = some q ∧ t.exec.pc = before.length ∧
      pulsed s t (runPulses s.port s.port.cur before) ∧ t.seqAt q = some v' ∧ v'.consumed = true ∧ v'.cmds = v.cmds ∧
      t.result = s.result

/-- Stepping the executor command by command from the start of a run ends in the state SEQ_RUN answers (60_exceptions.md R196 "both
give the same trace"; the granularity is notes/assumptions/1.md). -/
def Obligations.RunIsItsSteps : Prop :=
  ∀ (s : State) (q : Nat) (v : Seq), s.ready → handlesRise 0 s.seqs = true → s.seqAt q = some v → v.consumed = false →
    ∃ t, exec (.seqRun q) s = .next t ∧
      (t.fault = none → steps (v.cmds.length + 1) (beginRun q v s) = .next t) ∧
      (t.fault ≠ none → steps (t.exec.pc + 1) (beginRun q v s) = .next t)

/-! ## Builder and buffers -/

/-- 42_sequence_builder.md R108: no builder operation writes or reads a pin, reads the timer, or changes `PORT.CUR`. -/
def Obligations.BuilderIsQuiet : Prop :=
  ∀ (s t : State) (q node idle flags n h o : Nat) (st exit : TapState) (wantTdi wantTdo : Bool) (bytes : List Byte),
    (exec (.seqCreate node) s = .next t ∨ exec (.seqAddState q st idle) s = .next t ∨
      exec (.seqAddShift q flags n wantTdi wantTdo exit) s = .next t ∨ exec (.seqClear q) s = .next t ∨
      exec (.seqDelete q) s = .next t ∨ exec (.bufWrite q h o bytes) s = .next t ∨ exec (.bufRead q h o n) s = .next t) →
    t.pins = s.pins ∧ t.trace = s.trace ∧ t.env = s.env ∧ t.port = s.port

/-- The checks of 42_sequence_builder.md R109 and 43_executor.md R118 on a sequence handle, in their order and before every other
check, whatever the other operands are. A handle of more than 16 bits names no live sequence, so it is `BadHandle` and not
`ValueTooWide`: the model's choice (notes/assumptions/7.md). -/
def Obligations.HandleChecks : Prop :=
  ∀ (s : State) (q : Nat) (i : Instr), s.fault = none →
    ((∃ st idle, i = .seqAddState q st idle) ∨ (∃ flags n wi wo exit, i = .seqAddShift q flags n wi wo exit) ∨ i = .seqRun q ∨
      i = .seqClear q ∨ i = .seqDelete q ∨ (∃ h o bytes, i = .bufWrite q h o bytes) ∨ (∃ h o n, i = .bufRead q h o n)) →
    (s.port.init = false → exec i s = .next (takeFault .notInitialised s)) ∧
    (s.port.init = true → s.seqAt q = none → exec i s = .next (takeFault .badHandle s)) ∧
    (s.port.init = true → handlesRise 0 s.seqs = true → 2 ^ 16 ≤ q → exec i s = .next (takeFault .badHandle s)) ∧
    (∀ v, s.port.init = true → s.seqAt q = some v → v.consumed = true →
      ((∃ st idle, i = .seqAddState q st idle) ∨ (∃ flags n wi wo exit, i = .seqAddShift q flags n wi wo exit) ∨
        i = .seqRun q) → exec i s = .next (takeFault .sequenceConsumed s))

/-- SEQ_CREATE (42_sequence_builder.md R110): the lowest free handle gets an empty record, nothing else changes; with every handle in
use it faults; a node over 8 bits is `ValueTooWide` (60_exceptions.md R176; its place is notes/assumptions/7.md). -/
def Obligations.SeqCreate : Prop :=
  ∀ (s : State) (node : Nat), s.ready → handlesRise 0 s.seqs = true →
    (2 ^ 8 ≤ node → exec (.seqCreate node) s = .next (takeFault .valueTooWide s)) ∧
    (node < 2 ^ 8 → (∃ k, k < 65536 ∧ s.seqAt k = none) → ∃ t q, exec (.seqCreate node) s = .next t ∧ q < 65536 ∧ s.seqAt q = none ∧
      (∀ k, k < q → s.seqAt k ≠ none) ∧ t.returned = .handle q ∧ t.result = okWord ∧
      t.seqAt q = some { node := BitVec.ofNat 8 node, cmds := [], pool := [], consumed := false } ∧
      (∀ k, k ≠ q → t.seqAt k = s.seqAt k) ∧ unreport s (t.withSeqs s.seqs) = s) ∧
    (node < 2 ^ 8 → (∀ k, k < 65536 → s.seqAt k ≠ none) → exec (.seqCreate node) s = .next (takeFault .resourceExhausted s))

/-- SEQ_ADD_STATE (42_sequence_builder.md R111): one word appended, with the bits R111 gives, and nothing else changed; idle clocks
on an unstable state are the error 0x00000202 with nothing appended; a count over 32 bits is `ValueTooWide` (60_exceptions.md R176;
its place is notes/assumptions/7.md). -/
def Obligations.SeqAddState : Prop :=
  ∀ (s : State) (q : Nat) (v : Seq) (st : TapState) (idle : Nat), s.ready → handlesRise 0 s.seqs = true →
    s.seqAt q = some v → v.consumed = false →
    (2 ^ 32 ≤ idle → exec (.seqAddState q st idle) s = .next (takeFault .valueTooWide s)) ∧
    (idle < 2 ^ 32 → idle = 0 ∨ st.stable = true → ∃ t w, exec (.seqAddState q st idle) s = .next t ∧
      w.toNat = idle * 2 ^ 8 + st.code.toNat * 2 ∧ t.seqAt q = some { v with cmds := v.cmds ++ [w] } ∧
      (∀ k, k ≠ q → t.seqAt k = s.seqAt k) ∧ t.result = okWord ∧ t.returned = .nothing ∧
      unreport s (t.withSeqs s.seqs) = s) ∧
    (idle < 2 ^ 32 → 0 < idle → st.stable = false → exec (.seqAddState q st idle) s = .next ((s.withResult 0x00000202#32).withReturned .nothing))

/-- SEQ_ADD_SHIFT (42_sequence_builder.md R112, R113): one word appended, with the bits R112 gives; a new zero-filled buffer of
`ceil(n/8)` bytes for each buffer asked for, the TDI one first; the buffers before keep every byte; nothing else changes. -/
def Obligations.SeqAddShift : Prop :=
  ∀ (s : State) (q flags n : Nat) (v : Seq) (wantTdi wantTdo : Bool) (exit : TapState), s.ready →
    handlesRise 0 s.seqs = true → s.seqAt q = some v → v.consumed = false → flags < 4 → 1 ≤ n → n < 2 ^ 23 →
    v.pool.length + wantTdi.toNat + wantTdo.toNat ≤ 65536 →
    ∃ t w v', exec (.seqAddShift q flags n wantTdi wantTdo exit) s = .next t ∧ t.seqAt q = some v' ∧
      v' = { v with cmds := v.cmds ++ [w], pool := v'.pool } ∧
      w.toNat = (if wantTdo then (v.pool.length + wantTdi.toNat) * 2 ^ 48 else 0) +
        (if wantTdi then v.pool.length * 2 ^ 32 else 0) + n * 2 ^ 9 + exit.code.toNat * 2 ^ 5 +
        (if wantTdi then 0 else (flags / 2) * 2 ^ 4) + wantTdo.toNat * 2 ^ 3 + wantTdi.toNat * 2 ^ 2 + (flags % 2) * 2 + 1 ∧
      v'.pool.length = v.pool.length + wantTdi.toNat + wantTdo.toNat ∧
      (∀ k, k < v.pool.length → v'.pool[k]? = v.pool[k]?) ∧
      (∀ k m, v.pool.length ≤ k → v'.pool[k]? = some m → m.size = (n + 7) / 8 ∧ ∀ o, m.byteAt o = 0#8) ∧
      t.returned = .bufHandles (if wantTdi then some v.pool.length else none)
        (if wantTdo then some (v.pool.length + wantTdi.toNat) else none) ∧
      (∀ k, k ≠ q → t.seqAt k = s.seqAt k) ∧ t.result = okWord ∧ unreport s (t.withSeqs s.seqs) = s

/-- The stops of SEQ_ADD_SHIFT on an open sequence, in the order of 42_sequence_builder.md R112, each with nothing else changed; flags
over 8 bits are `ValueTooWide` before them (60_exceptions.md R176; its place is notes/assumptions/7.md). -/
def Obligations.SeqAddShiftChecks : Prop :=
  ∀ (s : State) (q flags n : Nat) (v : Seq) (wantTdi wantTdo : Bool) (exit : TapState), s.ready →
    s.seqAt q = some v → v.consumed = false →
    (2 ^ 8 ≤ flags → exec (.seqAddShift q flags n wantTdi wantTdo exit) s = .next (takeFault .valueTooWide s)) ∧
    (4 ≤ flags → flags < 2 ^ 8 → exec (.seqAddShift q flags n wantTdi wantTdo exit) s = .next (takeFault .badFlags s)) ∧
    (flags < 4 → n = 0 → exec (.seqAddShift q flags n wantTdi wantTdo exit) s =
      .next ((s.withResult 0x00000102#32).withReturned .nothing)) ∧
    (flags < 4 → 2 ^ 23 ≤ n → exec (.seqAddShift q flags n wantTdi wantTdo exit) s = .next (takeFault .shiftTooLong s)) ∧
    (flags < 4 → 1 ≤ n → n < 2 ^ 23 → 65536 < v.pool.length + wantTdi.toNat + wantTdo.toNat →
      exec (.seqAddShift q flags n wantTdi wantTdo exit) s = .next (takeFault .resourceExhausted s))

/-- SEQ_CLEAR and SEQ_DELETE (42_sequence_builder.md R114, R115) on a live sequence, consumed or not: the one leaves it with no
command, no buffer and runnable, the other frees its handle; no other sequence and nothing else changes. -/
def Obligations.SeqClearDelete : Prop :=
  ∀ (s : State) (q : Nat) (v : Seq), s.ready → handlesRise 0 s.seqs = true → s.seqAt q = some v →
    (∃ t, exec (.seqClear q) s = .next t ∧ t.seqAt q = some { v with cmds := [], pool := [], consumed := false } ∧
      (∀ k, k ≠ q → t.seqAt k = s.seqAt k) ∧ t.result = okWord ∧ t.returned = .nothing ∧
      unreport s (t.withSeqs s.seqs) = s) ∧
    (∃ t, exec (.seqDelete q) s = .next t ∧ t.seqAt q = none ∧
      (∀ k, k ≠ q → t.seqAt k = s.seqAt k) ∧ t.result = okWord ∧ t.returned = .nothing ∧
      unreport s (t.withSeqs s.seqs) = s)

/-- BUF_WRITE (42_sequence_builder.md R116, 20_memory.md R51): byte `o + k` of buffer h takes byte k, every other byte of every buffer
reads as before, sizes stay, nothing else changes; outside a live buffer it faults with nothing changed; a buffer handle over 16
bits is `ValueTooWide` (60_exceptions.md R176; its place is notes/assumptions/7.md). -/
def Obligations.BufWrite : Prop :=
  ∀ (s : State) (q h o : Nat) (bytes : List Byte) (v : Seq), s.ready → handlesRise 0 s.seqs = true → s.memoryWf = true →
    s.seqAt q = some v →
    (2 ^ 16 ≤ h → exec (.bufWrite q h o bytes) s = .next (takeFault .valueTooWide s)) ∧
    (h < 2 ^ 16 → ∀ m, v.pool[h]? = some m → o + bytes.length ≤ m.size → ∃ t v', exec (.bufWrite q h o bytes) s = .next t ∧
      t.seqAt q = some v' ∧ v' = { v with pool := v'.pool } ∧ v'.pool.length = v.pool.length ∧
      (∀ k x, v.pool[k]? = some x → ∃ y, v'.pool[k]? = some y ∧ y.size = x.size ∧
        ∀ a, y.byteAt a = if k = h ∧ o ≤ a ∧ a < o + bytes.length then bytes.getD (a - o) 0#8 else x.byteAt a) ∧
      (∀ k, k ≠ q → t.seqAt k = s.seqAt k) ∧ t.result = okWord ∧ t.returned = .nothing ∧
      unreport s (t.withSeqs s.seqs) = s) ∧
    (h < 2 ^ 16 → (∀ m, v.pool[h]? = some m → m.size < o + bytes.length) →
      exec (.bufWrite q h o bytes) s = .next (takeFault .badBufferAccess s))

/-- BUF_READ (42_sequence_builder.md R117, 20_memory.md R51): the n bytes from offset o, and nothing changes; outside a live buffer it
faults with nothing changed; a buffer handle over 16 bits is `ValueTooWide` (60_exceptions.md R176; its place is
notes/assumptions/7.md). -/
def Obligations.BufRead : Prop :=
  ∀ (s : State) (q h o n : Nat) (v : Seq), s.ready → handlesRise 0 s.seqs = true → s.seqAt q = some v →
    (2 ^ 16 ≤ h → exec (.bufRead q h o n) s = .next (takeFault .valueTooWide s)) ∧
    (h < 2 ^ 16 → ∀ m, v.pool[h]? = some m → o + n ≤ m.size → ∃ t bs, exec (.bufRead q h o n) s = .next t ∧ t.returned = .bytes bs ∧
      bs.length = n ∧ (∀ k, k < n → bs.getD k 0#8 = m.byteAt (o + k)) ∧ t.result = okWord ∧ unreport s t = s) ∧
    (h < 2 ^ 16 → (∀ m, v.pool[h]? = some m → m.size < o + n) → exec (.bufRead q h o n) s = .next (takeFault .badBufferAccess s))

/-! ## Discovery -/

/-- 44_discovery.md R138: DETECT_TAPS emits `32·MAX_TAPS + 43` TCK pulses whatever the chain holds, and leaves the TDI latch at
`DUMMY_ID[31]`, the last bit it drove. -/
def Obligations.DetectPulses : Prop :=
  ∀ s : State, s.ready → ∃ t early, exec .detectTaps s = .next t ∧ pulsed s t (32 * Config.maxTaps + 43) ∧
    drove .tdi s t (early ++ [Config.dummyId.getLsbD 31]) ∧ t.pins.tdi = Config.dummyId.getLsbD 31

/-- DETECT_TAPS (44_discovery.md R129 to R134, R137): the pads and the target cleared, the dummy words driven, the samples of the shift
decoded into `IDLIST` and `CHAIN`, or both emptied with the error 0x00000601; nothing else changes. -/
def Obligations.DetectTaps : Prop :=
  ∀ s : State, s.ready → ∃ t walkIn samples walkOut, exec .detectTaps s = .next t ∧
    walkIn.length = 9 ∧ samples.length = 32 * (Config.maxTaps + 1) ∧ walkOut.length = 2 ∧
    sampledBits .tdo s t (walkIn ++ samples ++ walkOut) ∧
    drove .tms s t ([true, true, true, true, true] ++ [false, true, false, false] ++
      (List.replicate (32 * (Config.maxTaps + 1) - 1) false ++ [true]) ++ [true, false]) ∧
    drove .tdi s t ((List.replicate (Config.maxTaps + 1) (natBits 32 Config.dummyId.toNat)).flatten) ∧
    drove .hwmStart s t [] ∧
    t.port = { s.port with cur := .idle, irPre := 0#16, irPost := 0#16, drPre := 0#16, drPost := 0#16, target := 0xFF#8 } ∧
    (match decodeChain Config.dummyId Config.maxTaps samples with
      | some l => t.result = okWord ∧ t.returned = .idList l ∧ t.idList = l ∧ t.chain.map Node.entry = l ∧
          ∀ k n, t.chain[k]? = some n → n.ordinal = BitVec.ofNat 8 k ∧ n.irLength = 0#8 ∧ n.active = false
      | none => t.result = 0x00000601#32 ∧ t.returned = .nothing ∧ t.idList = [] ∧ t.chain = []) ∧
    undrive s (((t.withPort s.port).withIdList s.idList).withChain s.chain) = s

/-- The decoder of 44_discovery.md R133 reads back what a chain of at most `MAX_TAPS` TAPs followed by the sentinel presents: every ID
code (odd, and not the sentinel) and every bypass bit, in order (R134, R136). -/
def Obligations.DecodeChainComplete : Prop :=
  ∀ (dummy : BitVec 32) (maxTaps : Nat) (l : List IdEntry) (after : List Bool), dummy.getLsbD 0 = true → l.length ≤ maxTaps →
    (∀ v, IdEntry.idCode v ∈ l → v.getLsbD 0 = true ∧ v ≠ dummy) →
    decodeChain dummy maxTaps ((l.map IdEntry.bits).flatten ++ natBits 32 dummy.toNat ++ after) = some l

/-- 44_discovery.md R135: every `IdCode(v)` entry of a decoded list has `v[0] = 1`, and v is the 32 bits that begin with that leading
1; the list has at most `MAX_TAPS` entries. -/
def Obligations.DecodedIdCodesOdd : Prop :=
  ∀ (dummy : BitVec 32) (maxTaps : Nat) (c : List Bool) (l : List IdEntry), decodeChain dummy maxTaps c = some l →
    l.length ≤ maxTaps ∧ (∀ v, IdEntry.idCode v ∈ l → v.getLsbD 0 = true) ∧ (l.map IdEntry.bits).flatten <+: c

/-- On a chain of reference TAPs (60_exceptions.md R191, R192), at most `MAX_TAPS` of them, in any states, no ID code even or equal to
the sentinel, DETECT_TAPS lists every TAP, ordinal 0 first: its ID code, or `Bypass` (44_discovery.md R129, R134). The reference TAP is
that of notes/assumptions/16.md, outside the block. -/
def Obligations.DetectReferenceChain : Prop :=
  ∀ (s : State) (b : Bench) (taps : List Tap), s.ready → s.pins.tck = false → s.env.bench = some b → b.chain = some taps →
    taps.length ≤ Config.maxTaps → (∀ tap ∈ taps, ∀ v, tap.id = some v → v.getLsbD 0 = true ∧ v ≠ Config.dummyId) →
    ∃ t, exec .detectTaps s = .next t ∧ t.result = okWord ∧ t.idList = taps.map Tap.entry ∧
      t.chain.map Node.entry = taps.map Tap.entry

/-! ## Set-up and identity -/

/-- PORT_INIT with a legal pin map, from every state that is not faulted, the power-on ones included (45_identity.md R139,
70_reset_and_hazards.md R198): every register at its reset value, the pins parked, and exactly the pin events R139 lists; `KEY` and
`KEY_CRC` are left free. An illegal pin map is the error 0x00000101 with no register changed and no pin written. -/
def Obligations.PortInit : Prop :=
  ∀ (s : State) (m : PinMap), s.fault = none →
    ((∀ line ∈ m.lines, line < Config.gpioCount) → m.lines.Nodup → ∃ (t : State) (bits : List Bool), exec (.portInit m) s = .next t ∧
      t.port = freshPort m ∧
      t.pins = { tms := true, tck := false, tdi := false, hwmStart := false } ∧
      t.chain = [] ∧ t.idList = [] ∧ t.seqs = [] ∧ t.pseq = Seq.empty ∧ t.exec = { seq := none, pc := 0, needNav := false } ∧
      t.key.crcValid = false ∧ t.key.loaded = false ∧
      (∀ k : Fin 8, t.readback.words[k.val] = 0#32 ∧ t.readback.status[k.val] = 0#5) ∧
      t.result = 0#32 ∧ t.fault = none ∧ t.returned = .nothing ∧ t.hostQueue = s.hostQueue ∧
      bits.length = 5 ∧ t.trace = (parkingWrites m ++ bits.flatMap (undrivenCycle m true)).reverse ++ s.trace ∧ pulsed s t 5) ∧
    ((∃ line ∈ m.lines, Config.gpioCount ≤ line) ∨ ¬ m.lines.Nodup →
      exec (.portInit m) s = .next ((s.withResult 0x00000101#32).withReturned .nothing))

/-- IDENTIFY (45_identity.md R140): the first row whose 28 bits match, whatever bits 31:28 are; the identity registers take its
fields, or are cleared with the error 0x00000201; nothing else changes; a code over 32 bits is `ValueTooWide` (60_exceptions.md
R176). -/
def Obligations.Identify : Prop :=
  (∀ (table : List DeviceRow) (id : BitVec 32) (r : DeviceRow), lookupDevice table id = some r ↔
    ∃ k, table[k]? = some r ∧ r.id28 = id.extractLsb' 0 28 ∧
      ∀ (j : Nat) (r' : DeviceRow), j < k → table[j]? = some r' → r'.id28 ≠ id.extractLsb' 0 28) ∧
  (∀ (s : State) (id : Nat), s.ready → 2 ^ 32 ≤ id → exec (.identify id) s = .next (takeFault .valueTooWide s)) ∧
  (∀ (s : State) (id : Nat), s.ready → id < 2 ^ 32 → ∃ t, exec (.identify id) s = .next t ∧
    t.port = {
      s.port with family := t.port.family, irLen := t.port.irLen, segments := t.port.segments, masterSeg := t.port.masterSeg } ∧
    t.returned = .identity (lookupDevice Config.deviceTable (BitVec.ofNat 32 id)) ∧
    (match lookupDevice Config.deviceTable (BitVec.ofNat 32 id) with
      | some r => t.port.family = some r.family ∧ t.port.irLen = r.irLength ∧ t.port.segments = r.segments ∧
          t.port.masterSeg = r.masterSegment ∧ t.result = okWord
      | none => t.port.family = none ∧ t.port.irLen = 0#8 ∧ t.port.segments = 0#8 ∧ t.port.masterSeg = 0#8 ∧
          t.result = 0x00000201#32) ∧
    unreport s (t.withPort s.port) = s)

/-- SET_PADS (45_identity.md R142): the four pad registers, and nothing else; a count over 0xFFFF is `ValueTooWide`. -/
def Obligations.SetPads : Prop :=
  ∀ (s : State) (a b c d : Nat), s.ready →
    (a < 2 ^ 16 → b < 2 ^ 16 → c < 2 ^ 16 → d < 2 ^ 16 → ∃ t, exec (.setPads a b c d) s = .next t ∧
      t.port = { s.port with irPre := t.port.irPre, irPost := t.port.irPost, drPre := t.port.drPre, drPost := t.port.drPost } ∧
      t.port.irPre.toNat = a ∧ t.port.irPost.toNat = b ∧ t.port.drPre.toNat = c ∧ t.port.drPost.toNat = d ∧
      t.result = okWord ∧ t.returned = .nothing ∧ unreport s (t.withPort s.port) = s) ∧
    (0xFFFF < max (max a b) (max c d) → exec (.setPads a b c d) s = .next (takeFault .valueTooWide s))

/-- SELECT_TARGET (45_identity.md R143): the three errors in their order with no register changed; else the pads from the IR lengths
and positions of the other nodes, the target's identity, and `ir_length` and `active` of every node; nothing else changes. The rows
are those of the nodes, in order. An ordinal over 8 bits is `ValueTooWide` (60_exceptions.md R176), before the check of R143: the
order is the model's choice (notes/assumptions/7.md). -/
def Obligations.SelectTarget : Prop :=
  (∀ (table : List DeviceRow) (chain : List Node) (rows : List DeviceRow),
    rowsOf table chain = some rows ↔ chain.map (rowOf table) = rows.map some) ∧
  (∀ (s : State) (k : Nat), s.ready → 2 ^ 8 ≤ k → exec (.selectTarget k) s = .next (takeFault .valueTooWide s)) ∧
  (∀ (s : State) (k : Nat), s.ready → k < 2 ^ 8 → s.chain.length ≤ 256 → ∃ t, exec (.selectTarget k) s = .next t ∧
    match s.chain[k]? with
    | none => t = (s.withResult 0x00000401#32).withReturned .nothing
    | some n => match rowOf Config.deviceTable n, rowsOf Config.deviceTable s.chain with
      | none, _ => t = (s.withResult 0x00000201#32).withReturned .nothing
      | some _, none => t = (s.withResult 0x00000501#32).withReturned .nothing
      | some r, some rows =>
        if irSum (rows.take k) ≤ 0xFFFF ∧ irSum (rows.drop (k + 1)) ≤ 0xFFFF then
          t.port.family = some r.family ∧ t.port.irLen = r.irLength ∧ t.port.segments = r.segments ∧
          t.port.masterSeg = r.masterSegment ∧ t.port.target.toNat = k ∧ t.port.init = s.port.init ∧ t.port.cur = s.port.cur ∧
          t.port.pinmap = s.port.pinmap ∧
          t.port.irPre.toNat = irSum (rows.take k) ∧ t.port.irPost.toNat = irSum (rows.drop (k + 1)) ∧
          t.port.drPre.toNat = k ∧ t.port.drPost.toNat = s.chain.length - 1 - k ∧
          t.chain.length = s.chain.length ∧
          (∀ (j : Nat) (x : Node) (row : DeviceRow), s.chain[j]? = some x → rows[j]? = some row →
            t.chain[j]? = some { x with irLength := row.irLength, active := decide (j = k) }) ∧
          t.result = okWord ∧ t.returned = .nothing ∧ unreport s ((t.withPort s.port).withChain s.chain) = s
        else t = takeFault .valueTooWide s)

/-! ## Protocols -/

/-- The checks of 46_efuse.md R146, and of 47_bbram.md R163, R165 after them: no target, more than one segment, no key; each with no
pin driven and nothing else changed but `PSEQ`, which the operation empties at its start (43_executor.md R127), whatever the operands
are. -/
def Obligations.ProtocolChecks : Prop :=
  ∀ (s : State) (i : Instr), s.ready →
    (i = .jprogram ∨ i = .bbramProgram ∨ i = .bbramVerify ∨
      (∃ row bit page red, i = .efuseProgramRow row bit page red) ∨ (∃ row page red, i = .efuseReadRow row page red)) →
    (s.port.family = none ∨ s.port.irLen = 0#8 → exec i s = .next (((s.withPseq Seq.empty).withResult 0x00000301#32).withReturned .nothing)) ∧
    (s.port.family ≠ none → s.port.irLen ≠ 0#8 → s.port.segments ≠ 1#8 →
      exec i s = .next (((s.withPseq Seq.empty).withResult 0x00000701#32).withReturned .nothing)) ∧
    (s.port.family ≠ none → s.port.irLen ≠ 0#8 → s.port.segments = 1#8 → s.key.loaded = false →
      i = .bbramProgram ∨ i = .bbramVerify → exec i s = .next (takeFault .keyNotLoaded (s.withPseq Seq.empty)))

/-- `Delay` and `Poll` (60_exceptions.md R188, R189): a delay drives and samples no pin and ends when at least its microseconds have
passed between its first and last reading; a poll of a handshake pin samples it until it reads 1, the last sample saying which, and
gives up only when its microseconds have passed. `env.now` is the model's own clock (notes/assumptions/12.md). -/
def Obligations.DelayAndPoll : Prop :=
  (∀ (s : State) (us : Nat), us < 2 ^ 64 → ∃ (readings : List (BitVec 64)) (first last : BitVec 64),
    (delay us s).trace = readings.map Event.timer ++ s.trace ∧
    readings.getLast? = some first ∧ readings.head? = some last ∧ us ≤ (last - first).toNat ∧
    s.env.now + us ≤ (delay us s).env.now ∧ (delay us s).pins = s.pins ∧ (delay us s).port = s.port) ∧
  (∀ (s : State) (p : InPin) (us : Nat), p ≠ .tdo → ∃ samples,
    sampledBits p s (poll p us s).2 samples ∧
    samples = List.replicate (samples.length - 1) false ++ [(poll p us s).1] ∧
    ((poll p us s).1 = false → s.env.now + us ≤ (poll p us s).2.env.now) ∧
    (∀ o, drove o s (poll p us s).2 []) ∧ (poll p us s).2.pins = s.pins ∧ (poll p us s).2.port = s.port)

/-- JPROGRAM on a one-segment target (46_efuse.md R158, R160): the TMS walk through `Reset`, the instruction between its IR pads on
TDI, all of it by a state u; then, after the last clock, at least 100000 microseconds in which nothing but the timer is touched
(`env.now` is the model's clock, notes/assumptions/12.md). -/
def Obligations.Jprogram : Prop :=
  ∀ (s : State) (f : Family), s.targeted f → ∃ u t, exec .jprogram s = .next t ∧ t.fault = none ∧ t.result = okWord ∧
    t.returned = .nothing ∧ t.port.cur = .idle ∧
    traceGrows s u ∧ pulsed s u (5 + (5 + s.port.irPads + s.port.irLen.toNat + 2)) ∧
    drove .tdi s u (irBits s.port .jprogram f) ∧
    drove .tms s u ([true, true, true, true, true] ++ scanTms resetToShiftIr (s.port.irPads + s.port.irLen.toNat)) ∧
    drove .hwmStart s u [] ∧ timersOf u.trace = timersOf s.trace ∧ u.env.now = s.env.now ∧
    (∃ readings : List (BitVec 64), t.trace = readings.map Event.timer ++ u.trace) ∧ u.env.now + 100000 ≤ t.env.now ∧
    t.seqs = s.seqs ∧ undrive s (rebuffer s t) = s

/-- EFUSE_PROGRAM_ROW on a one-segment target (46_efuse.md R150, R153 to R155, R160): a row over 16 bits or a page over 8 is
`ValueTooWide` (60_exceptions.md R176; its place is notes/assumptions/7.md), a bit over 31 faults, an address outside the encoder's
domain is the error 0x00000801 and an `EFUSE_PROG_IDLE` that no command word holds faults (00_scope.md R15; notes/assumptions/13.md),
with no pin driven and `PSEQ` emptied (43_executor.md R127). Else the instruction and the word are scanned and the idle clocks given, all by a state u that has not touched
`HWM_START`; the answer is the `handshake` of u (its results are what Handshake states), with no clock after u, the module asked to
start exactly once and released exactly once. With the fuse-blow module of 60_exceptions.md R195 (notes/assumptions/16.md) that
answers at once the result is `OK`. -/
def Obligations.EfuseProgramRow : Prop :=
  ∀ (s : State) (f : Family) (row bit page : Nat) (red : Bool), s.targeted f →
    (2 ^ 16 ≤ row ∨ 2 ^ 8 ≤ page →
      exec (.efuseProgramRow row bit page red) s = .next (takeFault .valueTooWide (s.withPseq Seq.empty))) ∧
    (row < 2 ^ 16 → page < 2 ^ 8 → 31 < bit →
      exec (.efuseProgramRow row bit page red) s = .next (takeFault .badArgument (s.withPseq Seq.empty))) ∧
    (row < 2 ^ 16 → page < 2 ^ 8 → bit ≤ 31 →
      match Config.efuseDrEncode f (BitVec.ofNat 16 row) (BitVec.ofNat 5 bit) (BitVec.ofNat 8 page) red true with
      | none => exec (.efuseProgramRow row bit page red) s =
          .next (((s.withPseq Seq.empty).withResult 0x00000801#32).withReturned .nothing)
      | some w =>
        if Config.efuseProgIdle < 2 ^ 32 then
          ∃ u t, exec (.efuseProgramRow row bit page red) s = .next t ∧ t = handshake u ∧ traceGrows s u ∧
            u.fault = none ∧ u.port.cur = .idle ∧
            pulsed s u (5 + (5 + s.port.irPads + s.port.irLen.toNat + 2) + (3 + s.port.drPads + 64 + 2) + Config.efuseProgIdle) ∧
            drove .tdi s u (irBits s.port .fuseCts f ++ scanBits s.port .dr 64 w.toNat) ∧
            drove .tms s u ([true, true, true, true, true] ++ scanTms resetToShiftIr (s.port.irPads + s.port.irLen.toNat) ++
              scanTms idleToShiftDr (s.port.drPads + 64) ++ List.replicate Config.efuseProgIdle false) ∧
            drove .hwmStart s u [] ∧ sampledBits .hwmReady s u [] ∧ sampledBits .hwmEnd s u [] ∧
            pulsed u t 0 ∧ drove .tdi u t [] ∧ drove .tms u t [] ∧ drove .hwmStart u t [true, false] ∧ t.pins.hwmStart = false ∧
            t.fault = none ∧ t.returned = .nothing ∧ t.port.cur = .idle ∧
            (t.result = okWord ∨ t.result = 0x01000103#32 ∨ t.result = 0x01000203#32) ∧
            (∀ b, s.env.bench = some b → b.hwm.tReady = some 0 → b.hwm.tEnd = some 0 → t.result = okWord) ∧
            t.seqs = s.seqs ∧ undrive s (rebuffer s t) = s
        else exec (.efuseProgramRow row bit page red) s = .next (takeFault .valueTooWide (s.withPseq Seq.empty)))

/-- The handshake (46_efuse.md R152 to R154): no TCK pulse; `HWM_START` set once, then `HWM_READY` polled, which ends in the state a; when
it read 1 the pulse is held, by the delay that ends in the state b (after a timeout b is a); then the release at b, and `HWM_END`
polled. The result says what the two pins read: a timeout of `Ready` when `HWM_READY` never read 1 within `HWM_TIMEOUT_US` (and
`HWM_END` is not asked), else 12 microseconds pass between a and b, and a timeout of `End` when `HWM_END` never read 1 within
`HWM_TIMEOUT_US` of the release, else `OK`. What a poll and a delay do is DelayAndPoll; `env.now` is the model's clock
(notes/assumptions/12.md). With the module of 60_exceptions.md R195 (notes/assumptions/16.md) that answers at once it is `OK`, with one that never answers, a
timeout. -/
def Obligations.Handshake : Prop :=
  ∀ s : State, (handshake s).fault = s.fault ∧ pulsed s (handshake s) 0 ∧ (handshake s).port = s.port ∧
    drove .tms s (handshake s) [] ∧ drove .tdi s (handshake s) [] ∧ drove .hwmStart s (handshake s) [true, false] ∧
    (handshake s).pins = { s.pins with hwmStart := false } ∧
    (let a := (poll .hwmReady Config.hwmTimeoutUs (pinWrite .hwmStart true s)).2
     let b := if (poll .hwmReady Config.hwmTimeoutUs (pinWrite .hwmStart true s)).1 then delay 12 a else a
     ∃ ready ended : List Bool,
      traceGrows (pinWrite .hwmStart true s) a ∧ traceGrows a b ∧ traceGrows (pinWrite .hwmStart false b) (handshake s) ∧
      drove .hwmStart (pinWrite .hwmStart true s) a [] ∧ drove .hwmStart a b [] ∧
      drove .hwmStart (pinWrite .hwmStart false b) (handshake s) [] ∧
      sampledBits .hwmReady (pinWrite .hwmStart true s) a ready ∧ sampledBits .hwmReady a (handshake s) [] ∧
      sampledBits .hwmEnd s b [] ∧ sampledBits .hwmEnd (pinWrite .hwmStart false b) (handshake s) ended ∧
      (((handshake s).result = 0x01000103#32 ∧ ready ≠ [] ∧ (∀ x ∈ ready, x = false) ∧ ended = [] ∧
          s.env.now + Config.hwmTimeoutUs ≤ a.env.now) ∨
        ((handshake s).result = 0x01000203#32 ∧ ready.getLast? = some true ∧ a.env.now + 12 ≤ b.env.now ∧ ended ≠ [] ∧
          (∀ x ∈ ended, x = false) ∧ b.env.now + Config.hwmTimeoutUs ≤ (handshake s).env.now) ∨
        ((handshake s).result = okWord ∧ ready.getLast? = some true ∧ a.env.now + 12 ≤ b.env.now ∧
          ended.getLast? = some true))) ∧
    (∀ b, s.env.bench = some b →
      (b.hwm.tReady = some 0 → b.hwm.tEnd = some 0 → (handshake s).result = okWord) ∧
      (b.hwm.tReady = none → (handshake s).result = 0x01000103#32))

/-- EFUSE_READ_ROW on a one-segment target (46_efuse.md R156, R157, R160): two scans of the same word, the row data being stream bits
32 to 63 of what the second scan captures; `HWM_START` is not written. A row over 16 bits or a page over 8 is `ValueTooWide`
(60_exceptions.md R176; its place is notes/assumptions/7.md), and so is an `EFUSE_READ_IDLE` that no command word holds (00_scope.md
R15; notes/assumptions/13.md), with no pin driven and `PSEQ` emptied (43_executor.md R127). -/
def Obligations.EfuseReadRow : Prop :=
  ∀ (s : State) (f : Family) (row page : Nat) (red : Bool), s.targeted f →
    (2 ^ 16 ≤ row ∨ 2 ^ 8 ≤ page → exec (.efuseReadRow row page red) s = .next (takeFault .valueTooWide (s.withPseq Seq.empty))) ∧
    (row < 2 ^ 16 → page < 2 ^ 8 → match Config.efuseDrEncode f (BitVec.ofNat 16 row) 0#5 (BitVec.ofNat 8 page) red false with
    | none => exec (.efuseReadRow row page red) s = .next (((s.withPseq Seq.empty).withResult 0x00000801#32).withReturned .nothing)
    | some w =>
      if Config.efuseReadIdle < 2 ^ 32 then
        ∃ t data, exec (.efuseReadRow row page red) s = .next t ∧ t.fault = none ∧ t.returned = .rowData data ∧
          t.result = okWord ∧ t.port.cur = .idle ∧
          (∀ j, j < 32 → data.getLsbD j = (samplesBefore t (2 + s.port.drPost.toNat) 64).getD (32 + j) false) ∧
          pulsed s t (5 + (5 + s.port.irPads + s.port.irLen.toNat + 2) + (3 + s.port.drPads + 64 + 2) + Config.efuseReadIdle +
            (3 + s.port.drPads + 64 + 2)) ∧
          drove .tdi s t (irBits s.port .fuseCts f ++ scanBits s.port .dr 64 w.toNat ++ scanBits s.port .dr 64 w.toNat) ∧
          drove .tms s t ([true, true, true, true, true] ++ scanTms resetToShiftIr (s.port.irPads + s.port.irLen.toNat) ++
            scanTms idleToShiftDr (s.port.drPads + 64) ++ List.replicate Config.efuseReadIdle false ++
            scanTms idleToShiftDr (s.port.drPads + 64)) ∧
          drove .hwmStart s t [] ∧ t.seqs = s.seqs ∧ undrive s (rebuffer s t) = s
      else exec (.efuseReadRow row page red) s = .next (takeFault .valueTooWide (s.withPseq Seq.empty)))

/-- KEY_LOAD (47_bbram.md R161): the 32 bytes, the CRC (0 when not valid) and the flags, and nothing else; a key of another length
faults. KEY_READBACK (R170): the words and status bits, and nothing changes. A valid CRC over 32 bits is `ValueTooWide`
(60_exceptions.md R176; its place is notes/assumptions/7.md); that a CRC that is not valid may have any width is the model's reading
(notes/assumptions/24.md). -/
def Obligations.KeyOperations : Prop :=
  (∀ s : State, s.ready → ∃ t, exec .keyReadback s = .next t ∧
    t.returned = .readback s.readback.words s.readback.status ∧ t.result = okWord ∧ unreport s t = s) ∧
  (∀ (s : State) (kb : List Byte) (crc : Nat), s.ready → 2 ^ 32 ≤ crc →
    exec (.keyLoad kb true crc) s = .next (takeFault .valueTooWide s)) ∧
  ∀ (s : State) (kb : List Byte) (crcValid : Bool) (crc : Nat), s.ready → (crcValid = true → crc < 2 ^ 32) →
    (kb.length = 32 → ∃ t, exec (.keyLoad kb crcValid crc) s = .next t ∧
      (∀ j : Fin 32, t.key.bytes[j.val] = kb.getD j.val 0#8) ∧ t.key.crcValid = crcValid ∧
      t.key.crc.toNat = (if crcValid then crc else 0) ∧ t.key.loaded = true ∧ t.result = okWord ∧ t.returned = .nothing ∧
      unreport s (t.withKey s.key) = s) ∧
    (kb.length ≠ 32 → exec (.keyLoad kb crcValid crc) s = .next (takeFault .badArgument s))

/-- BBRAM_PROGRAM on a one-segment target with a key (47_bbram.md R163, R164, R171): everything it drives on TDI and TMS, in order, and
its TCK pulses; the key and every register but `PORT.CUR` and the private record are unchanged. A `BBRAM_PROGRAM_KEY_BITS` over
`MAX_SHIFT_BITS` is `ShiftTooLong` (42_sequence_builder.md R112; notes/assumptions/13.md), with no pin driven and `PSEQ` emptied
(43_executor.md R127). -/
def Obligations.BbramProgram : Prop :=
  ∀ (s : State) (f : Family), s.targeted f → s.key.loaded = true →
   if Config.maxShiftBits < Config.bbramProgramKeyBits then exec .bbramProgram s = .next (takeFault .shiftTooLong (s.withPseq Seq.empty))
   else ∃ t, exec .bbramProgram s = .next t ∧ t.fault = none ∧
    t.result = okWord ∧ t.returned = .nothing ∧ t.port.cur = .idle ∧
    pulsed s t (5 + (5 + s.port.irPads + s.port.irLen.toNat + 2) + (3 + s.port.drPads + 5 + 2) + 12 +
      (4 + s.port.irPads + s.port.irLen.toNat + 2) + (3 + s.port.drPads + Config.bbramProgramKeyBits + 2) + 9 +
      8 * ((4 + s.port.irPads + s.port.irLen.toNat + 2) + (3 + s.port.drPads + 32 + 2) + 1)) ∧
    drove .tdi s t (irBits s.port .iscEnable f ++ scanBits s.port .dr 5 Config.bbramEnableDr.toNat ++
      irBits s.port .iscProgramKey f ++ paddedStream s.port .dr (List.replicate Config.bbramProgramKeyBits true) ++
      (List.finRange 8).flatMap fun k => irBits s.port .iscProgram f ++ scanBits s.port .dr 32 (keyWord s.key.bytes k).toNat) ∧
    drove .tms s t ([true, true, true, true, true] ++ scanTms resetToShiftIr (s.port.irPads + s.port.irLen.toNat) ++
      scanTms idleToShiftDr (s.port.drPads + 5) ++ List.replicate 12 false ++
      scanTms idleToShiftIr (s.port.irPads + s.port.irLen.toNat) ++
      scanTms idleToShiftDr (s.port.drPads + Config.bbramProgramKeyBits) ++ List.replicate 9 false ++
      (List.replicate 8 (scanTms idleToShiftIr (s.port.irPads + s.port.irLen.toNat) ++ scanTms idleToShiftDr (s.port.drPads + 32) ++
        [false])).flatten) ∧
    drove .hwmStart s t [] ∧ t.seqs = s.seqs ∧ undrive s (rebuffer s t) = s

/-- BBRAM_VERIFY on a one-segment target with a key (47_bbram.md R165, R169, R171): from `Idle` its TCK pulses; from every state, what it
drives on TDI and TMS, `READKEY` and `READKEY_STATUS` bit by bit from the samples of the eight scans, and the result its checks give. -/
def Obligations.BbramVerify : Prop :=
  ∀ (s : State) (f : Family), s.targeted f → s.key.loaded = true → ∃ t, exec .bbramVerify s = .next t ∧ t.fault = none ∧
    t.port.cur = .idle ∧ t.returned = .nothing ∧
    t.result = (match checkReadback s.key t.readback with
      | none => okWord
      | some e => e.word) ∧
    (s.port.cur = .idle → pulsed s t ((4 + s.port.irPads + s.port.irLen.toNat + 2) + (3 + s.port.drPads + 5 + 2) + 12 +
      8 * readWordClocks s.port)) ∧
    drove .tdi s t (irBits s.port .iscEnable f ++ scanBits s.port .dr 5 Config.bbramEnableDr.toNat ++
      (List.finRange 8).flatMap fun _ => irBits s.port .iscRead f ++ paddedStream s.port .dr (List.replicate 37 false)) ∧
    drove .tms s t (scanTms (if s.port.cur = .shiftIR then [] else (navEntry s.port.cur .shiftIR).walk)
        (s.port.irPads + s.port.irLen.toNat) ++
      scanTms idleToShiftDr (s.port.drPads + 5) ++ List.replicate 12 false ++
      (List.replicate 8 (scanTms idleToShiftIr (s.port.irPads + s.port.irLen.toNat) ++ scanTms idleToShiftDr (s.port.drPads + 37) ++
        [false])).flatten) ∧
    (∀ (k : Fin 8) (j : Nat),
      (j < 32 → t.readback.words[k.val].getLsbD j =
        (samplesBefore t ((7 - k.val) * readWordClocks s.port + 3 + s.port.drPost.toNat) 37).getD j false) ∧
      (j < 5 → t.readback.status[k.val].getLsbD j =
        (samplesBefore t ((7 - k.val) * readWordClocks s.port + 3 + s.port.drPost.toNat) 37).getD (32 + j) false)) ∧
    drove .hwmStart s t [] ∧ t.seqs = s.seqs ∧ undrive s ((rebuffer s t).withReadback s.readback) = s

/-- The checks of BBRAM_VERIFY (47_bbram.md R165 to R168, 60_exceptions.md R178): the lowest word whose status is not ready; else the
word `j div 4` of the lowest byte that differs from the key; else the CRC, when one was supplied; else none. Equal bytes are
equal words (R166). -/
def Obligations.VerifyChecks : Prop :=
  ∀ (key : KeyRegs) (r : Readback),
    (∀ k : Fin 8, r.status[k.val] ≠ 0#5 → (∀ k' : Fin 8, k' < k → r.status[k'.val] = 0#5) →
      checkReadback key r = some (.notReady k.val)) ∧
    ((∀ k : Fin 8, r.status[k.val] = 0#5) →
      (∀ j : Fin 32, r.byte j ≠ key.bytes[j.val] → (∀ j' : Fin 32, j' < j → r.byte j' = key.bytes[j'.val]) →
        checkReadback key r = some (.dataMismatch (j.val / 4))) ∧
      ((∀ j : Fin 32, r.byte j = key.bytes[j.val]) → checkReadback key r =
        if key.crcValid = true ∧ Config.bbramCrcFn r.words ≠ key.crc then some .crcMismatch else none)) ∧
    ((∀ j : Fin 32, r.byte j = key.bytes[j.val]) ↔ ∀ k : Fin 8, r.words[k.val] = keyWord key.bytes k)

/-! ## The whole machine -/

/-- 60_exceptions.md R176: a faulted block is stuck. No instruction, PORT_INIT included, and no step changes a register, writes or reads
a pin, or returns anything. -/
def Obligations.FaultIsSticky : Prop :=
  (∀ (s : State) (i : Instr) (r : FaultReason), s.fault = some r → exec i s = .next (s.withReturned .nothing)) ∧
    (∀ (s : State) (r : FaultReason), s.fault = some r →
      step s = .next ((s.withHostQueue s.hostQueue.tail).withReturned .nothing))

/-- 70_reset_and_hazards.md R197: before the first PORT_INIT every other instruction faults `NotInitialised`, whatever its operands,
and changes nothing else; a PORT_INIT with a legal pin map initialises the block. -/
def Obligations.NotInitialised : Prop :=
  (∀ (s : State) (i : Instr), s.poweredOn → (∀ m, i ≠ .portInit m) → exec i s = .next (takeFault .notInitialised s)) ∧
    ∀ (s : State) (m : PinMap), s.poweredOn → (∀ line ∈ m.lines, line < Config.gpioCount) → m.lines.Nodup →
      ∃ t, exec (.portInit m) s = .next t ∧ t.port.init = true ∧ t.fault = none

/-- The events of one clock, in their order, with TDI driven or kept, its sample, and the state it leaves (40_navigator.md R88 to
R90). `PORT.CUR` moves only as the TMS levels of the clocks an instruction emits move it by the diagram of 10_state.md R24: each clock
writes TMS once (R89, R90; 10_state.md R28). PORT_INIT alone sets it besides. -/
def Obligations.CurFollowsTms : Prop :=
  (∀ (s : State) (tms : Bool) (tdi : Option Bool),
    (clock tms tdi s).2.trace = (match tdi with
      | some d => [.write .tck s.port.pinmap.tck false, .read .tdo s.port.pinmap.tdo (clock tms tdi s).1,
          .write .tck s.port.pinmap.tck true, .write .tdi s.port.pinmap.tdi d, .write .tms s.port.pinmap.tms tms]
      | none => [.write .tck s.port.pinmap.tck false, .read .tdo s.port.pinmap.tdo (clock tms tdi s).1,
          .write .tck s.port.pinmap.tck true, .write .tms s.port.pinmap.tms tms]) ++ s.trace ∧
    (clock tms tdi s).2.port = s.port.withCur (s.port.cur.next tms) ∧
    (clock tms tdi s).2.pins = { s.pins with tms := tms, tck := false, tdi := tdi.getD s.pins.tdi }) ∧
  ∀ (s t : State) (i : Instr), exec i s = .next t → (∀ m, i ≠ .portInit m) →
    ∃ bits, drove .tms s t bits ∧ pulsed s t bits.length ∧ t.port.cur = bits.foldl TapState.next s.port.cur

/-- Which instructions write which registers (10_state.md R27, R32, R33, R36, R41 to R44; PORT_INIT writes them all): an instruction that
changes one is one of its writers. The private record is written by the protocol operations, and by the commands that run in it
(notes/assumptions/22.md). -/
def Obligations.RegisterWriters : Prop :=
  ∀ (s t : State) (i : Instr), exec i s = .next t → (∀ m, i ≠ .portInit m) →
    t.port.init = s.port.init ∧ t.port.pinmap = s.port.pinmap ∧ t.hostQueue = s.hostQueue ∧ traceGrows s t ∧
    ((t.port.irPre ≠ s.port.irPre ∨ t.port.irPost ≠ s.port.irPost ∨ t.port.drPre ≠ s.port.drPre ∨ t.port.drPost ≠ s.port.drPost) →
      i = .detectTaps ∨ (∃ a b c d, i = .setPads a b c d) ∨ ∃ k, i = .selectTarget k) ∧
    ((t.port.family ≠ s.port.family ∨ t.port.irLen ≠ s.port.irLen ∨ t.port.segments ≠ s.port.segments ∨
      t.port.masterSeg ≠ s.port.masterSeg) → (∃ id, i = .identify id) ∨ ∃ k, i = .selectTarget k) ∧
    (t.port.target ≠ s.port.target ∨ t.chain ≠ s.chain → i = .detectTaps ∨ ∃ k, i = .selectTarget k) ∧
    (t.idList ≠ s.idList → i = .detectTaps) ∧ (t.key ≠ s.key → ∃ kb cv crc, i = .keyLoad kb cv crc) ∧
    (t.readback ≠ s.readback → i = .bbramVerify) ∧
    (t.seqs ≠ s.seqs → i.isHostOp = false ∨ (∃ node, i = .seqCreate node) ∨ (∃ q st idle, i = .seqAddState q st idle) ∨
      (∃ q flags n wi wo exit, i = .seqAddShift q flags n wi wo exit) ∨ (∃ q, i = .seqClear q) ∨ (∃ q, i = .seqDelete q) ∨
      (∃ q h o bytes, i = .bufWrite q h o bytes) ∨ ∃ q, i = .seqRun q) ∧
    (t.pseq ≠ s.pseq → i.isHostOp = false ∨ i = .jprogram ∨ i = .bbramProgram ∨ i = .bbramVerify ∨
      (∃ row bit page red, i = .efuseProgramRow row bit page red) ∨ ∃ row page red, i = .efuseReadRow row page red)

/-- Only EFUSE_PROGRAM_ROW asks the fuse-blow module to start, and at most once: a fuse blow is never started by another instruction
and never retried (46_efuse.md R154, R155, 43_executor.md R125). -/
def Obligations.OnlyFuseProgramStarts : Prop :=
  ∀ (s t : State) (i : Instr), exec i s = .next t →
    fuseStarts t.trace = fuseStarts s.trace ∨
      (fuseStarts t.trace = fuseStarts s.trace + 1 ∧ ∃ row bit page red, i = .efuseProgramRow row bit page red)

/-! ## Invariants -/

/-- The registers of State.reset hold the values of 70_reset_and_hazards.md R198 (the pin map, `KEY` and `KEY_CRC`, which R198 leaves
open, are the model's: notes/assumptions/3.md, 4.md). -/
def Obligations.ResetValues : Prop :=
  State.reset.port.init = true ∧ State.reset.port.cur = .reset ∧ State.reset.port.irPre = 0#16 ∧ State.reset.port.irPost = 0#16 ∧
    State.reset.port.drPre = 0#16 ∧ State.reset.port.drPost = 0#16 ∧ State.reset.port.irLen = 0#8 ∧
    State.reset.port.segments = 0#8 ∧ State.reset.port.masterSeg = 0#8 ∧ State.reset.port.family = none ∧
    State.reset.port.target = 0xFF#8 ∧ State.reset.pins = { tms := true, tck := false, tdi := false, hwmStart := false } ∧
    State.reset.chain = [] ∧ State.reset.idList = [] ∧ State.reset.seqs = [] ∧ State.reset.pseq = Seq.empty ∧
    State.reset.exec = { seq := none, pc := 0, needNav := false } ∧ State.reset.key.crcValid = false ∧
    State.reset.key.loaded = false ∧
    (∀ k : Fin 8, State.reset.readback.words[k.val] = 0#32 ∧ State.reset.readback.status[k.val] = 0#5) ∧
    State.reset.result = 0x00000000#32 ∧ State.reset.fault = none

/-- Every invariant below holds right after reset (the pin map of `State.reset` is the model's choice, notes/assumptions/3.md). -/
def Obligations.InvariantsAtReset : Prop :=
  State.reset.memoryWf = true ∧ State.reset.seqsLegal = true ∧ State.reset.pinsParked ∧ State.reset.pinMapUsable ∧
    State.reset.identityConsistent ∧ State.reset.chainConsistent ∧ State.reset.execLive ∧ State.reset.keyConsistent ∧
    resultLegal State.reset.result

/-- Every step keeps every buffer in canonical form (notes/assumptions/19.md; 10_state.md R35). -/
def Obligations.StepKeepsMemory : Prop := ∀ s t : State, s.memoryWf = true → step s = .next t → t.memoryWf = true

/-- Every step keeps every sequence legal: rising 16-bit handles, at most 65536 buffers, and no illegal word, so that the builder
never creates one (30_encoding.md R75) and no run spoils one (10_state.md R34). -/
def Obligations.StepKeepsSequences : Prop := ∀ s t : State, s.seqsLegal = true → step s = .next t → t.seqsLegal = true

/-- Every step leaves TCK and `HWM_START` low and the pin map legal (40_navigator.md R90, 46_efuse.md R152, 45_identity.md R139). -/
def Obligations.StepKeepsPins : Prop :=
  ∀ s t : State, s.pinsParked → s.pinMapUsable → step s = .next t → t.pinsParked ∧ t.pinMapUsable

/-- Every step keeps the identity registers those of no device or of a possible table row (45_identity.md R140, R141, R143), the key
flags consistent (47_bbram.md R161), and `RESULT` one of the words of 60_exceptions.md R172. -/
def Obligations.StepKeepsIdentityKeyResult : Prop :=
  (∀ s t : State, s.identityConsistent → step s = .next t → t.identityConsistent) ∧
    (∀ s t : State, s.keyConsistent → step s = .next t → t.keyConsistent) ∧
    (∀ s t : State, resultLegal s.result → step s = .next t → resultLegal t.result)

/-- Every step keeps `CHAIN` the nodes of `IDLIST`, in order, within `MAX_TAPS`, only the target active (10_state.md R31, R32). -/
def Obligations.StepKeepsChain : Prop := ∀ s t : State, s.chainConsistent → step s = .next t → t.chainConsistent

/-- Every step keeps a run in progress on a live consumed sequence with `EXEC.PC` within it, so that the model's stop
`lostSequence` (notes/assumptions/21.md) is never reached from such a state, nor from any power-on state
(70_reset_and_hazards.md R197). -/
def Obligations.StepKeepsRun : Prop :=
  ∀ s : State, (s.port.init = true → handlesRise 0 s.seqs = true) → s.execLive → ∃ t, step s = .next t ∧ t.execLive

/-- From a state whose sequences are legal no step reaches `BadCommand`: the builder never creates an illegal word (30_encoding.md
R75), and neither does the protocol layer (43_executor.md R127). -/
def Obligations.BadCommandUnreachable : Prop :=
  ∀ s t : State, s.seqsLegal = true → s.execLive → s.fault = none → step s = .next t → t.fault ≠ some .badCommand
end

