-- ==== Sys2Proof/Laws/State.lean ====
section
/-! SUPPORT. One lemma per field per update of the state, so that no proof unfolds a record update. -/

namespace Sys2Proof.Machine

open Sys2Proof

@[simp] theorem State.withPort_port (s : State) (v : Port) : (s.withPort v).port = v := rfl
@[simp] theorem State.withPort_pins (s : State) (v : Port) : (s.withPort v).pins = s.pins := rfl
@[simp] theorem State.withPort_chain (s : State) (v : Port) : (s.withPort v).chain = s.chain := rfl
@[simp] theorem State.withPort_idList (s : State) (v : Port) : (s.withPort v).idList = s.idList := rfl
@[simp] theorem State.withPort_seqs (s : State) (v : Port) : (s.withPort v).seqs = s.seqs := rfl
@[simp] theorem State.withPort_pseq (s : State) (v : Port) : (s.withPort v).pseq = s.pseq := rfl
@[simp] theorem State.withPort_exec (s : State) (v : Port) : (s.withPort v).exec = s.exec := rfl
@[simp] theorem State.withPort_key (s : State) (v : Port) : (s.withPort v).key = s.key := rfl
@[simp] theorem State.withPort_readback (s : State) (v : Port) : (s.withPort v).readback = s.readback := rfl
@[simp] theorem State.withPort_result (s : State) (v : Port) : (s.withPort v).result = s.result := rfl
@[simp] theorem State.withPort_fault (s : State) (v : Port) : (s.withPort v).fault = s.fault := rfl
@[simp] theorem State.withPort_returned (s : State) (v : Port) : (s.withPort v).returned = s.returned := rfl
@[simp] theorem State.withPort_hostQueue (s : State) (v : Port) : (s.withPort v).hostQueue = s.hostQueue := rfl
@[simp] theorem State.withPort_trace (s : State) (v : Port) : (s.withPort v).trace = s.trace := rfl
@[simp] theorem State.withPort_env (s : State) (v : Port) : (s.withPort v).env = s.env := rfl

@[simp] theorem State.withPins_port (s : State) (v : Pins) : (s.withPins v).port = s.port := rfl
@[simp] theorem State.withPins_pins (s : State) (v : Pins) : (s.withPins v).pins = v := rfl
@[simp] theorem State.withPins_chain (s : State) (v : Pins) : (s.withPins v).chain = s.chain := rfl
@[simp] theorem State.withPins_idList (s : State) (v : Pins) : (s.withPins v).idList = s.idList := rfl
@[simp] theorem State.withPins_seqs (s : State) (v : Pins) : (s.withPins v).seqs = s.seqs := rfl
@[simp] theorem State.withPins_pseq (s : State) (v : Pins) : (s.withPins v).pseq = s.pseq := rfl
@[simp] theorem State.withPins_exec (s : State) (v : Pins) : (s.withPins v).exec = s.exec := rfl
@[simp] theorem State.withPins_key (s : State) (v : Pins) : (s.withPins v).key = s.key := rfl
@[simp] theorem State.withPins_readback (s : State) (v : Pins) : (s.withPins v).readback = s.readback := rfl
@[simp] theorem State.withPins_result (s : State) (v : Pins) : (s.withPins v).result = s.result := rfl
@[simp] theorem State.withPins_fault (s : State) (v : Pins) : (s.withPins v).fault = s.fault := rfl
@[simp] theorem State.withPins_returned (s : State) (v : Pins) : (s.withPins v).returned = s.returned := rfl
@[simp] theorem State.withPins_hostQueue (s : State) (v : Pins) : (s.withPins v).hostQueue = s.hostQueue := rfl
@[simp] theorem State.withPins_trace (s : State) (v : Pins) : (s.withPins v).trace = s.trace := rfl
@[simp] theorem State.withPins_env (s : State) (v : Pins) : (s.withPins v).env = s.env := rfl

@[simp] theorem State.withChain_port (s : State) (v : List Node) : (s.withChain v).port = s.port := rfl
@[simp] theorem State.withChain_pins (s : State) (v : List Node) : (s.withChain v).pins = s.pins := rfl
@[simp] theorem State.withChain_chain (s : State) (v : List Node) : (s.withChain v).chain = v := rfl
@[simp] theorem State.withChain_idList (s : State) (v : List Node) : (s.withChain v).idList = s.idList := rfl
@[simp] theorem State.withChain_seqs (s : State) (v : List Node) : (s.withChain v).seqs = s.seqs := rfl
@[simp] theorem State.withChain_pseq (s : State) (v : List Node) : (s.withChain v).pseq = s.pseq := rfl
@[simp] theorem State.withChain_exec (s : State) (v : List Node) : (s.withChain v).exec = s.exec := rfl
@[simp] theorem State.withChain_key (s : State) (v : List Node) : (s.withChain v).key = s.key := rfl
@[simp] theorem State.withChain_readback (s : State) (v : List Node) : (s.withChain v).readback = s.readback := rfl
@[simp] theorem State.withChain_result (s : State) (v : List Node) : (s.withChain v).result = s.result := rfl
@[simp] theorem State.withChain_fault (s : State) (v : List Node) : (s.withChain v).fault = s.fault := rfl
@[simp] theorem State.withChain_returned (s : State) (v : List Node) : (s.withChain v).returned = s.returned := rfl
@[simp] theorem State.withChain_hostQueue (s : State) (v : List Node) : (s.withChain v).hostQueue = s.hostQueue := rfl
@[simp] theorem State.withChain_trace (s : State) (v : List Node) : (s.withChain v).trace = s.trace := rfl
@[simp] theorem State.withChain_env (s : State) (v : List Node) : (s.withChain v).env = s.env := rfl

@[simp] theorem State.withIdList_port (s : State) (v : List IdEntry) : (s.withIdList v).port = s.port := rfl
@[simp] theorem State.withIdList_pins (s : State) (v : List IdEntry) : (s.withIdList v).pins = s.pins := rfl
@[simp] theorem State.withIdList_chain (s : State) (v : List IdEntry) : (s.withIdList v).chain = s.chain := rfl
@[simp] theorem State.withIdList_idList (s : State) (v : List IdEntry) : (s.withIdList v).idList = v := rfl
@[simp] theorem State.withIdList_seqs (s : State) (v : List IdEntry) : (s.withIdList v).seqs = s.seqs := rfl
@[simp] theorem State.withIdList_pseq (s : State) (v : List IdEntry) : (s.withIdList v).pseq = s.pseq := rfl
@[simp] theorem State.withIdList_exec (s : State) (v : List IdEntry) : (s.withIdList v).exec = s.exec := rfl
@[simp] theorem State.withIdList_key (s : State) (v : List IdEntry) : (s.withIdList v).key = s.key := rfl
@[simp] theorem State.withIdList_readback (s : State) (v : List IdEntry) : (s.withIdList v).readback = s.readback := rfl
@[simp] theorem State.withIdList_result (s : State) (v : List IdEntry) : (s.withIdList v).result = s.result := rfl
@[simp] theorem State.withIdList_fault (s : State) (v : List IdEntry) : (s.withIdList v).fault = s.fault := rfl
@[simp] theorem State.withIdList_returned (s : State) (v : List IdEntry) : (s.withIdList v).returned = s.returned := rfl
@[simp] theorem State.withIdList_hostQueue (s : State) (v : List IdEntry) : (s.withIdList v).hostQueue = s.hostQueue := rfl
@[simp] theorem State.withIdList_trace (s : State) (v : List IdEntry) : (s.withIdList v).trace = s.trace := rfl
@[simp] theorem State.withIdList_env (s : State) (v : List IdEntry) : (s.withIdList v).env = s.env := rfl

@[simp] theorem State.withSeqs_port (s : State) (v : List (Nat × Seq)) : (s.withSeqs v).port = s.port := rfl
@[simp] theorem State.withSeqs_pins (s : State) (v : List (Nat × Seq)) : (s.withSeqs v).pins = s.pins := rfl
@[simp] theorem State.withSeqs_chain (s : State) (v : List (Nat × Seq)) : (s.withSeqs v).chain = s.chain := rfl
@[simp] theorem State.withSeqs_idList (s : State) (v : List (Nat × Seq)) : (s.withSeqs v).idList = s.idList := rfl
@[simp] theorem State.withSeqs_seqs (s : State) (v : List (Nat × Seq)) : (s.withSeqs v).seqs = v := rfl
@[simp] theorem State.withSeqs_pseq (s : State) (v : List (Nat × Seq)) : (s.withSeqs v).pseq = s.pseq := rfl
@[simp] theorem State.withSeqs_exec (s : State) (v : List (Nat × Seq)) : (s.withSeqs v).exec = s.exec := rfl
@[simp] theorem State.withSeqs_key (s : State) (v : List (Nat × Seq)) : (s.withSeqs v).key = s.key := rfl
@[simp] theorem State.withSeqs_readback (s : State) (v : List (Nat × Seq)) : (s.withSeqs v).readback = s.readback := rfl
@[simp] theorem State.withSeqs_result (s : State) (v : List (Nat × Seq)) : (s.withSeqs v).result = s.result := rfl
@[simp] theorem State.withSeqs_fault (s : State) (v : List (Nat × Seq)) : (s.withSeqs v).fault = s.fault := rfl
@[simp] theorem State.withSeqs_returned (s : State) (v : List (Nat × Seq)) : (s.withSeqs v).returned = s.returned := rfl
@[simp] theorem State.withSeqs_hostQueue (s : State) (v : List (Nat × Seq)) : (s.withSeqs v).hostQueue = s.hostQueue := rfl
@[simp] theorem State.withSeqs_trace (s : State) (v : List (Nat × Seq)) : (s.withSeqs v).trace = s.trace := rfl
@[simp] theorem State.withSeqs_env (s : State) (v : List (Nat × Seq)) : (s.withSeqs v).env = s.env := rfl

@[simp] theorem State.withPseq_port (s : State) (v : Seq) : (s.withPseq v).port = s.port := rfl
@[simp] theorem State.withPseq_pins (s : State) (v : Seq) : (s.withPseq v).pins = s.pins := rfl
@[simp] theorem State.withPseq_chain (s : State) (v : Seq) : (s.withPseq v).chain = s.chain := rfl
@[simp] theorem State.withPseq_idList (s : State) (v : Seq) : (s.withPseq v).idList = s.idList := rfl
@[simp] theorem State.withPseq_seqs (s : State) (v : Seq) : (s.withPseq v).seqs = s.seqs := rfl
@[simp] theorem State.withPseq_pseq (s : State) (v : Seq) : (s.withPseq v).pseq = v := rfl
@[simp] theorem State.withPseq_exec (s : State) (v : Seq) : (s.withPseq v).exec = s.exec := rfl
@[simp] theorem State.withPseq_key (s : State) (v : Seq) : (s.withPseq v).key = s.key := rfl
@[simp] theorem State.withPseq_readback (s : State) (v : Seq) : (s.withPseq v).readback = s.readback := rfl
@[simp] theorem State.withPseq_result (s : State) (v : Seq) : (s.withPseq v).result = s.result := rfl
@[simp] theorem State.withPseq_fault (s : State) (v : Seq) : (s.withPseq v).fault = s.fault := rfl
@[simp] theorem State.withPseq_returned (s : State) (v : Seq) : (s.withPseq v).returned = s.returned := rfl
@[simp] theorem State.withPseq_hostQueue (s : State) (v : Seq) : (s.withPseq v).hostQueue = s.hostQueue := rfl
@[simp] theorem State.withPseq_trace (s : State) (v : Seq) : (s.withPseq v).trace = s.trace := rfl
@[simp] theorem State.withPseq_env (s : State) (v : Seq) : (s.withPseq v).env = s.env := rfl

@[simp] theorem State.withExec_port (s : State) (v : Exec) : (s.withExec v).port = s.port := rfl
@[simp] theorem State.withExec_pins (s : State) (v : Exec) : (s.withExec v).pins = s.pins := rfl
@[simp] theorem State.withExec_chain (s : State) (v : Exec) : (s.withExec v).chain = s.chain := rfl
@[simp] theorem State.withExec_idList (s : State) (v : Exec) : (s.withExec v).idList = s.idList := rfl
@[simp] theorem State.withExec_seqs (s : State) (v : Exec) : (s.withExec v).seqs = s.seqs := rfl
@[simp] theorem State.withExec_pseq (s : State) (v : Exec) : (s.withExec v).pseq = s.pseq := rfl
@[simp] theorem State.withExec_exec (s : State) (v : Exec) : (s.withExec v).exec = v := rfl
@[simp] theorem State.withExec_key (s : State) (v : Exec) : (s.withExec v).key = s.key := rfl
@[simp] theorem State.withExec_readback (s : State) (v : Exec) : (s.withExec v).readback = s.readback := rfl
@[simp] theorem State.withExec_result (s : State) (v : Exec) : (s.withExec v).result = s.result := rfl
@[simp] theorem State.withExec_fault (s : State) (v : Exec) : (s.withExec v).fault = s.fault := rfl
@[simp] theorem State.withExec_returned (s : State) (v : Exec) : (s.withExec v).returned = s.returned := rfl
@[simp] theorem State.withExec_hostQueue (s : State) (v : Exec) : (s.withExec v).hostQueue = s.hostQueue := rfl
@[simp] theorem State.withExec_trace (s : State) (v : Exec) : (s.withExec v).trace = s.trace := rfl
@[simp] theorem State.withExec_env (s : State) (v : Exec) : (s.withExec v).env = s.env := rfl

@[simp] theorem State.withKey_port (s : State) (v : KeyRegs) : (s.withKey v).port = s.port := rfl
@[simp] theorem State.withKey_pins (s : State) (v : KeyRegs) : (s.withKey v).pins = s.pins := rfl
@[simp] theorem State.withKey_chain (s : State) (v : KeyRegs) : (s.withKey v).chain = s.chain := rfl
@[simp] theorem State.withKey_idList (s : State) (v : KeyRegs) : (s.withKey v).idList = s.idList := rfl
@[simp] theorem State.withKey_seqs (s : State) (v : KeyRegs) : (s.withKey v).seqs = s.seqs := rfl
@[simp] theorem State.withKey_pseq (s : State) (v : KeyRegs) : (s.withKey v).pseq = s.pseq := rfl
@[simp] theorem State.withKey_exec (s : State) (v : KeyRegs) : (s.withKey v).exec = s.exec := rfl
@[simp] theorem State.withKey_key (s : State) (v : KeyRegs) : (s.withKey v).key = v := rfl
@[simp] theorem State.withKey_readback (s : State) (v : KeyRegs) : (s.withKey v).readback = s.readback := rfl
@[simp] theorem State.withKey_result (s : State) (v : KeyRegs) : (s.withKey v).result = s.result := rfl
@[simp] theorem State.withKey_fault (s : State) (v : KeyRegs) : (s.withKey v).fault = s.fault := rfl
@[simp] theorem State.withKey_returned (s : State) (v : KeyRegs) : (s.withKey v).returned = s.returned := rfl
@[simp] theorem State.withKey_hostQueue (s : State) (v : KeyRegs) : (s.withKey v).hostQueue = s.hostQueue := rfl
@[simp] theorem State.withKey_trace (s : State) (v : KeyRegs) : (s.withKey v).trace = s.trace := rfl
@[simp] theorem State.withKey_env (s : State) (v : KeyRegs) : (s.withKey v).env = s.env := rfl

@[simp] theorem State.withReadback_port (s : State) (v : Readback) : (s.withReadback v).port = s.port := rfl
@[simp] theorem State.withReadback_pins (s : State) (v : Readback) : (s.withReadback v).pins = s.pins := rfl
@[simp] theorem State.withReadback_chain (s : State) (v : Readback) : (s.withReadback v).chain = s.chain := rfl
@[simp] theorem State.withReadback_idList (s : State) (v : Readback) : (s.withReadback v).idList = s.idList := rfl
@[simp] theorem State.withReadback_seqs (s : State) (v : Readback) : (s.withReadback v).seqs = s.seqs := rfl
@[simp] theorem State.withReadback_pseq (s : State) (v : Readback) : (s.withReadback v).pseq = s.pseq := rfl
@[simp] theorem State.withReadback_exec (s : State) (v : Readback) : (s.withReadback v).exec = s.exec := rfl
@[simp] theorem State.withReadback_key (s : State) (v : Readback) : (s.withReadback v).key = s.key := rfl
@[simp] theorem State.withReadback_readback (s : State) (v : Readback) : (s.withReadback v).readback = v := rfl
@[simp] theorem State.withReadback_result (s : State) (v : Readback) : (s.withReadback v).result = s.result := rfl
@[simp] theorem State.withReadback_fault (s : State) (v : Readback) : (s.withReadback v).fault = s.fault := rfl
@[simp] theorem State.withReadback_returned (s : State) (v : Readback) : (s.withReadback v).returned = s.returned := rfl
@[simp] theorem State.withReadback_hostQueue (s : State) (v : Readback) : (s.withReadback v).hostQueue = s.hostQueue := rfl
@[simp] theorem State.withReadback_trace (s : State) (v : Readback) : (s.withReadback v).trace = s.trace := rfl
@[simp] theorem State.withReadback_env (s : State) (v : Readback) : (s.withReadback v).env = s.env := rfl

@[simp] theorem State.withResult_port (s : State) (v : BitVec 32) : (s.withResult v).port = s.port := rfl
@[simp] theorem State.withResult_pins (s : State) (v : BitVec 32) : (s.withResult v).pins = s.pins := rfl
@[simp] theorem State.withResult_chain (s : State) (v : BitVec 32) : (s.withResult v).chain = s.chain := rfl
@[simp] theorem State.withResult_idList (s : State) (v : BitVec 32) : (s.withResult v).idList = s.idList := rfl
@[simp] theorem State.withResult_seqs (s : State) (v : BitVec 32) : (s.withResult v).seqs = s.seqs := rfl
@[simp] theorem State.withResult_pseq (s : State) (v : BitVec 32) : (s.withResult v).pseq = s.pseq := rfl
@[simp] theorem State.withResult_exec (s : State) (v : BitVec 32) : (s.withResult v).exec = s.exec := rfl
@[simp] theorem State.withResult_key (s : State) (v : BitVec 32) : (s.withResult v).key = s.key := rfl
@[simp] theorem State.withResult_readback (s : State) (v : BitVec 32) : (s.withResult v).readback = s.readback := rfl
@[simp] theorem State.withResult_result (s : State) (v : BitVec 32) : (s.withResult v).result = v := rfl
@[simp] theorem State.withResult_fault (s : State) (v : BitVec 32) : (s.withResult v).fault = s.fault := rfl
@[simp] theorem State.withResult_returned (s : State) (v : BitVec 32) : (s.withResult v).returned = s.returned := rfl
@[simp] theorem State.withResult_hostQueue (s : State) (v : BitVec 32) : (s.withResult v).hostQueue = s.hostQueue := rfl
@[simp] theorem State.withResult_trace (s : State) (v : BitVec 32) : (s.withResult v).trace = s.trace := rfl
@[simp] theorem State.withResult_env (s : State) (v : BitVec 32) : (s.withResult v).env = s.env := rfl

@[simp] theorem State.withFault_port (s : State) (v : Option FaultReason) : (s.withFault v).port = s.port := rfl
@[simp] theorem State.withFault_pins (s : State) (v : Option FaultReason) : (s.withFault v).pins = s.pins := rfl
@[simp] theorem State.withFault_chain (s : State) (v : Option FaultReason) : (s.withFault v).chain = s.chain := rfl
@[simp] theorem State.withFault_idList (s : State) (v : Option FaultReason) : (s.withFault v).idList = s.idList := rfl
@[simp] theorem State.withFault_seqs (s : State) (v : Option FaultReason) : (s.withFault v).seqs = s.seqs := rfl
@[simp] theorem State.withFault_pseq (s : State) (v : Option FaultReason) : (s.withFault v).pseq = s.pseq := rfl
@[simp] theorem State.withFault_exec (s : State) (v : Option FaultReason) : (s.withFault v).exec = s.exec := rfl
@[simp] theorem State.withFault_key (s : State) (v : Option FaultReason) : (s.withFault v).key = s.key := rfl
@[simp] theorem State.withFault_readback (s : State) (v : Option FaultReason) : (s.withFault v).readback = s.readback := rfl
@[simp] theorem State.withFault_result (s : State) (v : Option FaultReason) : (s.withFault v).result = s.result := rfl
@[simp] theorem State.withFault_fault (s : State) (v : Option FaultReason) : (s.withFault v).fault = v := rfl
@[simp] theorem State.withFault_returned (s : State) (v : Option FaultReason) : (s.withFault v).returned = s.returned := rfl
@[simp] theorem State.withFault_hostQueue (s : State) (v : Option FaultReason) : (s.withFault v).hostQueue = s.hostQueue := rfl
@[simp] theorem State.withFault_trace (s : State) (v : Option FaultReason) : (s.withFault v).trace = s.trace := rfl
@[simp] theorem State.withFault_env (s : State) (v : Option FaultReason) : (s.withFault v).env = s.env := rfl

@[simp] theorem State.withReturned_port (s : State) (v : Returned) : (s.withReturned v).port = s.port := rfl
@[simp] theorem State.withReturned_pins (s : State) (v : Returned) : (s.withReturned v).pins = s.pins := rfl
@[simp] theorem State.withReturned_chain (s : State) (v : Returned) : (s.withReturned v).chain = s.chain := rfl
@[simp] theorem State.withReturned_idList (s : State) (v : Returned) : (s.withReturned v).idList = s.idList := rfl
@[simp] theorem State.withReturned_seqs (s : State) (v : Returned) : (s.withReturned v).seqs = s.seqs := rfl
@[simp] theorem State.withReturned_pseq (s : State) (v : Returned) : (s.withReturned v).pseq = s.pseq := rfl
@[simp] theorem State.withReturned_exec (s : State) (v : Returned) : (s.withReturned v).exec = s.exec := rfl
@[simp] theorem State.withReturned_key (s : State) (v : Returned) : (s.withReturned v).key = s.key := rfl
@[simp] theorem State.withReturned_readback (s : State) (v : Returned) : (s.withReturned v).readback = s.readback := rfl
@[simp] theorem State.withReturned_result (s : State) (v : Returned) : (s.withReturned v).result = s.result := rfl
@[simp] theorem State.withReturned_fault (s : State) (v : Returned) : (s.withReturned v).fault = s.fault := rfl
@[simp] theorem State.withReturned_returned (s : State) (v : Returned) : (s.withReturned v).returned = v := rfl
@[simp] theorem State.withReturned_hostQueue (s : State) (v : Returned) : (s.withReturned v).hostQueue = s.hostQueue := rfl
@[simp] theorem State.withReturned_trace (s : State) (v : Returned) : (s.withReturned v).trace = s.trace := rfl
@[simp] theorem State.withReturned_env (s : State) (v : Returned) : (s.withReturned v).env = s.env := rfl

@[simp] theorem State.withHostQueue_port (s : State) (v : List (List Byte)) : (s.withHostQueue v).port = s.port := rfl
@[simp] theorem State.withHostQueue_pins (s : State) (v : List (List Byte)) : (s.withHostQueue v).pins = s.pins := rfl
@[simp] theorem State.withHostQueue_chain (s : State) (v : List (List Byte)) : (s.withHostQueue v).chain = s.chain := rfl
@[simp] theorem State.withHostQueue_idList (s : State) (v : List (List Byte)) : (s.withHostQueue v).idList = s.idList := rfl
@[simp] theorem State.withHostQueue_seqs (s : State) (v : List (List Byte)) : (s.withHostQueue v).seqs = s.seqs := rfl
@[simp] theorem State.withHostQueue_pseq (s : State) (v : List (List Byte)) : (s.withHostQueue v).pseq = s.pseq := rfl
@[simp] theorem State.withHostQueue_exec (s : State) (v : List (List Byte)) : (s.withHostQueue v).exec = s.exec := rfl
@[simp] theorem State.withHostQueue_key (s : State) (v : List (List Byte)) : (s.withHostQueue v).key = s.key := rfl
@[simp] theorem State.withHostQueue_readback (s : State) (v : List (List Byte)) : (s.withHostQueue v).readback = s.readback := rfl
@[simp] theorem State.withHostQueue_result (s : State) (v : List (List Byte)) : (s.withHostQueue v).result = s.result := rfl
@[simp] theorem State.withHostQueue_fault (s : State) (v : List (List Byte)) : (s.withHostQueue v).fault = s.fault := rfl
@[simp] theorem State.withHostQueue_returned (s : State) (v : List (List Byte)) : (s.withHostQueue v).returned = s.returned := rfl
@[simp] theorem State.withHostQueue_hostQueue (s : State) (v : List (List Byte)) : (s.withHostQueue v).hostQueue = v := rfl
@[simp] theorem State.withHostQueue_trace (s : State) (v : List (List Byte)) : (s.withHostQueue v).trace = s.trace := rfl
@[simp] theorem State.withHostQueue_env (s : State) (v : List (List Byte)) : (s.withHostQueue v).env = s.env := rfl

@[simp] theorem State.withTrace_port (s : State) (v : List Event) : (s.withTrace v).port = s.port := rfl
@[simp] theorem State.withTrace_pins (s : State) (v : List Event) : (s.withTrace v).pins = s.pins := rfl
@[simp] theorem State.withTrace_chain (s : State) (v : List Event) : (s.withTrace v).chain = s.chain := rfl
@[simp] theorem State.withTrace_idList (s : State) (v : List Event) : (s.withTrace v).idList = s.idList := rfl
@[simp] theorem State.withTrace_seqs (s : State) (v : List Event) : (s.withTrace v).seqs = s.seqs := rfl
@[simp] theorem State.withTrace_pseq (s : State) (v : List Event) : (s.withTrace v).pseq = s.pseq := rfl
@[simp] theorem State.withTrace_exec (s : State) (v : List Event) : (s.withTrace v).exec = s.exec := rfl
@[simp] theorem State.withTrace_key (s : State) (v : List Event) : (s.withTrace v).key = s.key := rfl
@[simp] theorem State.withTrace_readback (s : State) (v : List Event) : (s.withTrace v).readback = s.readback := rfl
@[simp] theorem State.withTrace_result (s : State) (v : List Event) : (s.withTrace v).result = s.result := rfl
@[simp] theorem State.withTrace_fault (s : State) (v : List Event) : (s.withTrace v).fault = s.fault := rfl
@[simp] theorem State.withTrace_returned (s : State) (v : List Event) : (s.withTrace v).returned = s.returned := rfl
@[simp] theorem State.withTrace_hostQueue (s : State) (v : List Event) : (s.withTrace v).hostQueue = s.hostQueue := rfl
@[simp] theorem State.withTrace_trace (s : State) (v : List Event) : (s.withTrace v).trace = v := rfl
@[simp] theorem State.withTrace_env (s : State) (v : List Event) : (s.withTrace v).env = s.env := rfl

@[simp] theorem State.withEnv_port (s : State) (v : Env) : (s.withEnv v).port = s.port := rfl
@[simp] theorem State.withEnv_pins (s : State) (v : Env) : (s.withEnv v).pins = s.pins := rfl
@[simp] theorem State.withEnv_chain (s : State) (v : Env) : (s.withEnv v).chain = s.chain := rfl
@[simp] theorem State.withEnv_idList (s : State) (v : Env) : (s.withEnv v).idList = s.idList := rfl
@[simp] theorem State.withEnv_seqs (s : State) (v : Env) : (s.withEnv v).seqs = s.seqs := rfl
@[simp] theorem State.withEnv_pseq (s : State) (v : Env) : (s.withEnv v).pseq = s.pseq := rfl
@[simp] theorem State.withEnv_exec (s : State) (v : Env) : (s.withEnv v).exec = s.exec := rfl
@[simp] theorem State.withEnv_key (s : State) (v : Env) : (s.withEnv v).key = s.key := rfl
@[simp] theorem State.withEnv_readback (s : State) (v : Env) : (s.withEnv v).readback = s.readback := rfl
@[simp] theorem State.withEnv_result (s : State) (v : Env) : (s.withEnv v).result = s.result := rfl
@[simp] theorem State.withEnv_fault (s : State) (v : Env) : (s.withEnv v).fault = s.fault := rfl
@[simp] theorem State.withEnv_returned (s : State) (v : Env) : (s.withEnv v).returned = s.returned := rfl
@[simp] theorem State.withEnv_hostQueue (s : State) (v : Env) : (s.withEnv v).hostQueue = s.hostQueue := rfl
@[simp] theorem State.withEnv_trace (s : State) (v : Env) : (s.withEnv v).trace = s.trace := rfl
@[simp] theorem State.withEnv_env (s : State) (v : Env) : (s.withEnv v).env = v := rfl

@[simp] theorem Port.withCur_init (p : Port) (c : TapState) : (p.withCur c).init = p.init := rfl
@[simp] theorem Port.withCur_cur (p : Port) (c : TapState) : (p.withCur c).cur = c := rfl
@[simp] theorem Port.withCur_irPre (p : Port) (c : TapState) : (p.withCur c).irPre = p.irPre := rfl
@[simp] theorem Port.withCur_irPost (p : Port) (c : TapState) : (p.withCur c).irPost = p.irPost := rfl
@[simp] theorem Port.withCur_drPre (p : Port) (c : TapState) : (p.withCur c).drPre = p.drPre := rfl
@[simp] theorem Port.withCur_drPost (p : Port) (c : TapState) : (p.withCur c).drPost = p.drPost := rfl
@[simp] theorem Port.withCur_irLen (p : Port) (c : TapState) : (p.withCur c).irLen = p.irLen := rfl
@[simp] theorem Port.withCur_segments (p : Port) (c : TapState) : (p.withCur c).segments = p.segments := rfl
@[simp] theorem Port.withCur_masterSeg (p : Port) (c : TapState) : (p.withCur c).masterSeg = p.masterSeg := rfl
@[simp] theorem Port.withCur_family (p : Port) (c : TapState) : (p.withCur c).family = p.family := rfl
@[simp] theorem Port.withCur_target (p : Port) (c : TapState) : (p.withCur c).target = p.target := rfl
@[simp] theorem Port.withCur_pinmap (p : Port) (c : TapState) : (p.withCur c).pinmap = p.pinmap := rfl

end Sys2Proof.Machine
end

