-- ==== Sys2Proof/Laws/Drive.lean ====
section
/-! SUPPORT. What driving the pins can do: a frame for every operation that drives pins, and one exact account of clocking. -/

namespace Sys2Proof.Machine

open Sys2Proof

/-! ## The frame: only pins, `PORT.CUR`, the trace and the environment change -/

/-- `t` differs from `s` in the pin latches, `PORT.CUR`, the environment and a longer trace only. -/
structure Drives (s t : State) : Prop where
  port : t.port.withCur s.port.cur = s.port
  chain : t.chain = s.chain
  idList : t.idList = s.idList
  seqs : t.seqs = s.seqs
  pseq : t.pseq = s.pseq
  exec : t.exec = s.exec
  key : t.key = s.key
  readback : t.readback = s.readback
  result : t.result = s.result
  fault : t.fault = s.fault
  returned : t.returned = s.returned
  hostQueue : t.hostQueue = s.hostQueue
  grows : traceGrows s t

@[simp] theorem Port.withCur_self (p : Port) : p.withCur p.cur = p := rfl

theorem Drives.refl (s : State) : Drives s s :=
  ⟨rfl, rfl, rfl, rfl, rfl, rfl, rfl, rfl, rfl, rfl, rfl, rfl, [], rfl⟩

theorem Drives.trans {s t u : State} (a : Drives s t) (b : Drives t u) : Drives s u where
  port := by
    have h : u.port.withCur s.port.cur = (u.port.withCur t.port.cur).withCur s.port.cur := rfl
    rw [h, b.port, a.port]
  chain := b.chain.trans a.chain
  idList := b.idList.trans a.idList
  seqs := b.seqs.trans a.seqs
  pseq := b.pseq.trans a.pseq
  exec := b.exec.trans a.exec
  key := b.key.trans a.key
  readback := b.readback.trans a.readback
  result := b.result.trans a.result
  fault := b.fault.trans a.fault
  returned := b.returned.trans a.returned
  hostQueue := b.hostQueue.trans a.hostQueue
  grows := by
    obtain ⟨x, hx⟩ := a.grows
    obtain ⟨y, hy⟩ := b.grows
    exact ⟨y ++ x, by rw [hy, hx, List.append_assoc]⟩

/-- A driven state, field by field. -/
theorem Drives.eq {s t : State} (h : Drives s t) :
    t = (((s.withPort (s.port.withCur t.port.cur)).withPins t.pins).withTrace t.trace).withEnv t.env := by
  obtain ⟨p, c, i, q, ps, e, k, r, re, f, ret, hq, _⟩ := h
  obtain ⟨port, pins, chain, idList, seqs, pseq, exec, key, readback, result, fault, returned, hostQueue, trace, env⟩ := t
  obtain ⟨port', pins', chain', idList', seqs', pseq', exec', key', readback', result', fault', returned', hostQueue', trace',
    env'⟩ := s
  simp only at c i q ps e k r re f ret hq
  subst c i q ps e k r re f ret hq
  have hp : port = port'.withCur port.cur := by
    have h : port = (port.withCur port'.cur).withCur port.cur := rfl
    rw [h]
    exact congrArg (fun x => Port.withCur x port.cur) p
  simp only [State.withPort, State.withPins, State.withTrace, State.withEnv]
  rw [← hp]

/-- What `PORT.CUR` is not: the rest of the Port survives driving. -/
theorem Drives.port_fields {s t : State} (h : Drives s t) :
    t.port.init = s.port.init ∧ t.port.irPre = s.port.irPre ∧ t.port.irPost = s.port.irPost ∧ t.port.drPre = s.port.drPre ∧
      t.port.drPost = s.port.drPost ∧ t.port.irLen = s.port.irLen ∧ t.port.segments = s.port.segments ∧
      t.port.masterSeg = s.port.masterSeg ∧ t.port.family = s.port.family ∧ t.port.target = s.port.target ∧
      t.port.pinmap = s.port.pinmap := by
  have hp := h.port
  rw [← hp]
  exact ⟨rfl, rfl, rfl, rfl, rfl, rfl, rfl, rfl, rfl, rfl, rfl⟩

theorem pinWrite_drives (p : OutPin) (b : Bool) (s : State) : Drives s (pinWrite p b s) :=
  ⟨rfl, rfl, rfl, rfl, rfl, rfl, rfl, rfl, rfl, rfl, rfl, rfl, [_], rfl⟩

theorem pinRead_drives (p : InPin) (s : State) : Drives s (pinRead p s).2 :=
  ⟨rfl, rfl, rfl, rfl, rfl, rfl, rfl, rfl, rfl, rfl, rfl, rfl, [_], rfl⟩

theorem timerAt_drives (now : Nat) (s : State) : Drives s (timerAt now s).2 :=
  ⟨rfl, rfl, rfl, rfl, rfl, rfl, rfl, rfl, rfl, rfl, rfl, rfl, [_], rfl⟩

theorem timerRead_drives (s : State) : Drives s (timerRead s).2 := timerAt_drives _ s

theorem timerReadPast_drives (t0 : BitVec 64) (us : Nat) (s : State) : Drives s (timerReadPast t0 us s).2 := timerAt_drives _ s

theorem delayLoop_drives (t0 : BitVec 64) (us k : Nat) (s : State) : Drives s (delayLoop t0 us k s) := by
  induction k generalizing s with
  | zero => exact timerReadPast_drives _ _ _
  | succ k ih =>
    simp only [delayLoop]
    split
    · exact timerRead_drives s
    · exact (timerRead_drives s).trans (ih _)

theorem delay_drives (us : Nat) (s : State) : Drives s (delay us s) := (timerRead_drives s).trans (delayLoop_drives _ _ _ _)

theorem pollLoop_drives (p : InPin) (t0 : BitVec 64) (us k : Nat) (s : State) : Drives s (pollLoop p t0 us k s).2 := by
  induction k generalizing s with
  | zero =>
    simp only [pollLoop]
    split
    · exact pinRead_drives p s
    · exact (pinRead_drives p s).trans (timerReadPast_drives _ _ _)
  | succ k ih =>
    simp only [pollLoop]
    split
    · exact pinRead_drives p s
    · split
      · exact (pinRead_drives p s).trans (timerRead_drives _)
      · exact ((pinRead_drives p s).trans (timerRead_drives _)).trans (ih _)

theorem poll_drives (p : InPin) (us : Nat) (s : State) : Drives s (poll p us s).2 :=
  (timerRead_drives s).trans (pollLoop_drives _ _ _ _ _)

theorem setCur_drives (s : State) (c : TapState) : Drives s (s.setCur c) :=
  ⟨rfl, rfl, rfl, rfl, rfl, rfl, rfl, rfl, rfl, rfl, rfl, rfl, [], rfl⟩

/-! ## The exact account of clocking -/

/-- `t` is `s` after the clock cycles with TMS `tms`, writing `tdi` to TDI along the way and sampling `tdo`; all lists oldest
first. -/
structure Clocked (s t : State) (tms tdi tdo : List Bool) : Prop where
  drives : Drives s t
  count : pulsed s t tms.length
  droveTms : drove .tms s t tms
  droveTdi : drove .tdi s t tdi
  droveHwm : drove .hwmStart s t []
  sampled : sampledBits .tdo s t tdo
  sampledCount : tdo.length = tms.length
  readyReads : sampledBits .hwmReady s t []
  endReads : sampledBits .hwmEnd s t []
  timers : timersOf t.trace = timersOf s.trace
  cur : t.port.cur = tms.foldl TapState.next s.port.cur
  tckLow : s.pins.tck = false → t.pins.tck = false
  tms : t.pins.tms = lastLevel s.pins.tms tms
  tdi : t.pins.tdi = lastLevel s.pins.tdi tdi
  hwm : t.pins.hwmStart = s.pins.hwmStart
  now : t.env.now = s.env.now

theorem lastLevel_append (x : Bool) (a b : List Bool) : lastLevel x (a ++ b) = lastLevel (lastLevel x a) b := by
  unfold lastLevel
  rw [List.getLast?_append]
  cases b.getLast? <;> rfl

theorem Clocked.refl (s : State) : Clocked s s [] [] [] where
  drives := Drives.refl s
  count := rfl
  droveTms := rfl
  droveTdi := rfl
  droveHwm := rfl
  sampled := rfl
  sampledCount := rfl
  readyReads := rfl
  endReads := rfl
  timers := rfl
  cur := rfl
  tckLow := id
  tms := rfl
  tdi := rfl
  hwm := rfl
  now := rfl

theorem drove_trans {p : OutPin} {s t u : State} {a b : List Bool} (x : drove p s t a) (y : drove p t u b) :
    drove p s u (a ++ b) := by
  unfold drove at *
  rw [y, x, List.reverse_append, List.append_assoc]

theorem sampledBits_trans {p : InPin} {s t u : State} {a b : List Bool} (x : sampledBits p s t a) (y : sampledBits p t u b) :
    sampledBits p s u (a ++ b) := by
  unfold sampledBits at *
  rw [y, x, List.reverse_append, List.append_assoc]

theorem Clocked.trans {s t u : State} {a b c a' b' c' : List Bool} (x : Clocked s t a b c) (y : Clocked t u a' b' c') :
    Clocked s u (a ++ a') (b ++ b') (c ++ c') where
  drives := x.drives.trans y.drives
  count := by
    have h1 := x.count
    have h2 := y.count
    unfold pulsed at *
    rw [List.length_append]
    omega
  droveTms := drove_trans x.droveTms y.droveTms
  droveTdi := drove_trans x.droveTdi y.droveTdi
  droveHwm := drove_trans x.droveHwm y.droveHwm
  sampled := sampledBits_trans x.sampled y.sampled
  sampledCount := by rw [List.length_append, List.length_append, x.sampledCount, y.sampledCount]
  readyReads := sampledBits_trans x.readyReads y.readyReads
  endReads := sampledBits_trans x.endReads y.endReads
  timers := y.timers.trans x.timers
  cur := by rw [y.cur, x.cur, List.foldl_append]
  tckLow := fun h => y.tckLow (x.tckLow h)
  tms := by rw [y.tms, x.tms, lastLevel_append]
  tdi := by rw [y.tdi, x.tdi, lastLevel_append]
  hwm := y.hwm.trans x.hwm
  now := y.now.trans x.now

theorem risingEdge_now (e : Env) (a b : Bool) : (e.risingEdge a b).now = e.now := by
  unfold Env.risingEdge
  split
  · rfl
  · split <;> rfl

theorem onWrite_now (e : Env) (ps : Pins) (p : OutPin) (b : Bool) : (e.onWrite ps p b).now = e.now := by
  unfold Env.onWrite
  cases p with
  | tms => rfl
  | tdi => rfl
  | tck => dsimp only; split; exact risingEdge_now _ _ _; rfl
  | hwmStart => dsimp only; unfold Env.hwmStart; split <;> rfl

theorem sampled_now (e : Env) (p : InPin) (b : Bool) : (e.sampled p b).now = e.now := by
  unfold Env.sampled
  split
  · rfl
  · split <;> rfl

theorem pinWrite_now (p : OutPin) (b : Bool) (s : State) : (pinWrite p b s).env.now = s.env.now := onWrite_now _ _ _ _

theorem pinRead_now (p : InPin) (s : State) : (pinRead p s).2.env.now = s.env.now := sampled_now _ _ _

theorem driveTdi_now (tdi : Option Bool) (s : State) : (driveTdi tdi s).env.now = s.env.now := by
  cases tdi with
  | none => rfl
  | some b => exact pinWrite_now _ _ _

theorem driveTdi_drives (tdi : Option Bool) (s : State) : Drives s (driveTdi tdi s) := by
  cases tdi with
  | none => exact Drives.refl s
  | some b => exact pinWrite_drives _ _ _

theorem clock_drives (tms : Bool) (tdi : Option Bool) (s : State) : Drives s (clock tms tdi s).2 :=
  ((((pinWrite_drives .tms tms s).trans (driveTdi_drives tdi _)).trans (pinWrite_drives .tck true _)).trans
    (pinRead_drives .tdo _)).trans ((pinWrite_drives .tck false _).trans (setCur_drives _ _))

theorem clock_now (tms : Bool) (tdi : Option Bool) (s : State) : (clock tms tdi s).2.env.now = s.env.now :=
  (pinWrite_now _ _ _).trans ((pinRead_now _ _).trans ((pinWrite_now _ _ _).trans ((driveTdi_now _ _).trans (pinWrite_now _ _ _))))

/-- Everything one clock cycle does (40_navigator.md R88 to R90). -/
theorem clock_clocked (tms : Bool) (tdi : Option Bool) (s : State) :
    Clocked s (clock tms tdi s).2 [tms] tdi.toList [(clock tms tdi s).1] := by
  have drives := clock_drives tms tdi s
  have now := clock_now tms tdi s
  cases tdi <;>
    exact ⟨drives, rfl, rfl, rfl, rfl, rfl, rfl, rfl, rfl, rfl, rfl, fun _ => rfl, rfl, rfl, rfl, now⟩

/-- Everything a walk does. -/
theorem walk_clocked (bits : List Bool) (s : State) : ∃ tdo, Clocked s (walk bits s) bits [] tdo := by
  induction bits generalizing s with
  | nil => exact ⟨[], Clocked.refl s⟩
  | cons b rest ih =>
    obtain ⟨tdo, h⟩ := ih (clock b none s).2
    exact ⟨_, (clock_clocked b none s).trans h⟩

/-- The walks of the table lead where they say, five TMS-high clocks to `Reset` (30_encoding.md R80, 40_navigator.md R92). -/
theorem navBits_reaches (a b : TapState) : (navBits a b).foldl TapState.next a = b := by
  cases a <;> cases b <;> decide

theorem navBits_length (a b : TapState) : (navBits a b).length = walkPulses a b := by
  cases a <;> cases b <;> decide

/-- Everything a navigation does. -/
theorem navigateTo_clocked (b : TapState) (s : State) :
    ∃ tdo, Clocked s (navigateTo b s) (navBits s.port.cur b) [] tdo := by
  unfold navigateTo navBits
  split
  · exact walk_clocked _ s
  · split
    · exact ⟨[], Clocked.refl s⟩
    · exact walk_clocked _ s

theorem navigateTo_cur (b : TapState) (s : State) : (navigateTo b s).port.cur = b := by
  obtain ⟨_, h⟩ := navigateTo_clocked b s
  rw [h.cur, navBits_reaches]

theorem holdTms_stays {c : TapState} (h : c.stable = true) : c.next c.holdTms = c := by
  cases c <;> first | rfl | simp [TapState.stable] at h

/-- Everything idle ticks do. -/
theorem ticks_clocked (count : Nat) (s : State) :
    ∃ tdo, Clocked s (ticks count s) (List.replicate count s.port.cur.holdTms) [] tdo := walk_clocked _ s

theorem foldl_hold {c : TapState} (h : c.stable = true) (count : Nat) :
    (List.replicate count c.holdTms).foldl TapState.next c = c := by
  induction count with
  | zero => rfl
  | succ k ih => rw [List.replicate_succ, List.foldl_cons, holdTms_stays h, ih]

theorem ticks_cur {count : Nat} {s : State} (h : count = 0 ∨ s.port.cur.stable = true) :
    (ticks count s).port.cur = s.port.cur := by
  obtain ⟨_, hc⟩ := ticks_clocked count s
  rw [hc.cur]
  rcases h with rfl | h
  · rfl
  · exact foldl_hold h count

/-! ## Shifting -/

theorem shiftTms_length (leave : Bool) (n : Nat) : (shiftTms leave n).length = n := by
  induction n with
  | zero => rfl
  | succ n ih => simp [shiftTms, ih]

/-- Everything the clocks of a shift do: one clock a bit, every bit driven on TDI, every sample returned. -/
theorem shiftClocks_clocked (leave : Bool) (bits : List Bool) (s : State) :
    Clocked s (shiftClocks leave bits s).2 (shiftTms leave bits.length) bits (shiftClocks leave bits s).1 := by
  induction bits generalizing s with
  | nil => exact Clocked.refl s
  | cons b rest ih =>
    have h1 := clock_clocked (leave && rest.isEmpty) (some b) s
    have h2 := ih (clock (leave && rest.isEmpty) (some b) s).2
    have h := h1.trans h2
    have he : rest.isEmpty = decide (rest.length = 0) := by cases rest <;> rfl
    rw [he] at h
    unfold shiftClocks
    rw [he]
    exact h

theorem shiftTms_state (dir : Dir) (leave : Bool) (n : Nat) :
    (shiftTms leave n).foldl TapState.next dir.shiftState = if leave = true ∧ 1 ≤ n then dir.exit1State else dir.shiftState := by
  induction n with
  | zero => simp [shiftTms]
  | succ n ih =>
    cases leave
    · have h : (shiftTms false (n + 1)) = false :: shiftTms false n := by simp [shiftTms]
      have hs : dir.shiftState.next false = dir.shiftState := by cases dir <;> rfl
      rw [h, List.foldl_cons, hs, ih]
      simp
    · cases n with
      | zero => cases dir <;> rfl
      | succ n =>
        have h : (shiftTms true (n + 1 + 1)) = false :: shiftTms true (n + 1) := by simp [shiftTms]
        have hs : dir.shiftState.next false = dir.shiftState := by cases dir <;> rfl
        rw [h, List.foldl_cons, hs, ih]
        simp

theorem paddedStream_length (p : Port) (dir : Dir) (bits : List Bool) :
    (paddedStream p dir bits).length = paddedBits p dir bits.length := by
  simp [paddedStream, paddedBits]; omega

/-- Everything the shift engine does (41_shift_engine.md R98 to R104): the padded stream is driven, TMS rises on the last clock when
the exit state is not the shift state, and the caller's samples, and only those, are answered. -/
theorem shiftEngine_clocked (dir : Dir) (bits : List Bool) (exit : TapState) (s : State) :
    ∃ tdo, Clocked s (shiftEngine dir bits exit s).2
        (shiftTms (decide (exit ≠ dir.shiftState)) (paddedBits s.port dir bits.length)) (paddedStream s.port dir bits) tdo ∧
      (shiftEngine dir bits exit s).1 = (tdo.drop (s.port.prePad dir)).take bits.length := by
  refine ⟨_, ?_, rfl⟩
  have h := shiftClocks_clocked (decide (exit ≠ dir.shiftState)) (paddedStream s.port dir bits) s
  rw [paddedStream_length] at h
  exact h

theorem shiftEngine_length (dir : Dir) (bits : List Bool) (exit : TapState) (s : State) :
    (shiftEngine dir bits exit s).1.length = bits.length := by
  obtain ⟨tdo, h, e⟩ := shiftEngine_clocked dir bits exit s
  rw [e, List.length_take, List.length_drop, h.sampledCount, shiftTms_length]
  unfold paddedBits
  omega

/-- Where the engine leaves the modelled state, when it shifts at least one bit from the shift state. -/
theorem shiftEngine_cur {dir : Dir} {bits : List Bool} {exit : TapState} {s : State} (hs : s.port.cur = dir.shiftState)
    (hn : 1 ≤ bits.length) :
    (shiftEngine dir bits exit s).2.port.cur = if exit = dir.shiftState then dir.shiftState else dir.exit1State := by
  obtain ⟨tdo, h, _⟩ := shiftEngine_clocked dir bits exit s
  have hp : 1 ≤ paddedBits s.port dir bits.length := by unfold paddedBits; omega
  rw [h.cur, hs, shiftTms_state]
  by_cases he : exit = dir.shiftState
  · simp [he]
  · simp [he, hp]

end Sys2Proof.Machine
end

