-- ==== Sys2Proof/Laws/SeqTable.lean ====
section
/-! SUPPORT. Laws of the sequence table: lookup after insertion and erasure, the lowest free handle, and rising handles. -/

namespace Sys2Proof.Machine

open Sys2Proof

theorem handlesRise_weaken {low low' : Nat} {l : List (Nat × Seq)} (hle : low' ≤ low) (h : handlesRise low l = true) :
    handlesRise low' l = true := by
  cases l with
  | nil => rfl
  | cons c rest =>
    obtain ⟨a, x⟩ := c
    simp only [handlesRise, Bool.and_eq_true, decide_eq_true_eq] at h ⊢
    exact ⟨⟨by omega, h.1.2⟩, h.2⟩

theorem seqLookup_cons (a : Nat) (x : Seq) (l : List (Nat × Seq)) (k : Nat) :
    seqLookup ((a, x) :: l) k = if k = a then some x else seqLookup l k := by
  simp only [seqLookup]
  by_cases h : a = k
  · subst h; simp
  · rw [if_neg h, if_neg (fun e => h e.symm)]

theorem seqLookup_below {low k : Nat} {l : List (Nat × Seq)} (h : handlesRise low l = true) (hk : k < low) :
    seqLookup l k = none := by
  induction l generalizing low with
  | nil => rfl
  | cons c rest ih =>
    obtain ⟨a, x⟩ := c
    simp only [handlesRise, Bool.and_eq_true, decide_eq_true_eq] at h
    rw [seqLookup_cons, if_neg (by omega)]
    exact ih h.2 (by omega)

theorem seqLookup_mem {l : List (Nat × Seq)} {k : Nat} {v : Seq} (h : seqLookup l k = some v) : (k, v) ∈ l := by
  induction l with
  | nil => simp [seqLookup] at h
  | cons c rest ih =>
    obtain ⟨a, x⟩ := c
    rw [seqLookup_cons] at h
    split at h
    · subst_vars
      simp only [Option.some.injEq] at h
      subst h
      exact List.mem_cons_self
    · exact List.mem_cons_of_mem _ (ih h)

theorem seqLookup_lt {low k : Nat} {l : List (Nat × Seq)} {v : Seq} (h : handlesRise low l = true)
    (hk : seqLookup l k = some v) : k < Config.handleCount := by
  induction l generalizing low with
  | nil => simp [seqLookup] at hk
  | cons c rest ih =>
    obtain ⟨a, x⟩ := c
    simp only [handlesRise, Bool.and_eq_true, decide_eq_true_eq] at h
    rw [seqLookup_cons] at hk
    split at hk
    · subst_vars; exact h.1.2
    · exact ih h.2 hk

theorem seqLookup_insert {low : Nat} {l : List (Nat × Seq)} (h : handlesRise low l = true) (q k : Nat) (v : Seq) :
    seqLookup (seqInsert l q v) k = if k = q then some v else seqLookup l k := by
  induction l generalizing low with
  | nil => rw [seqInsert, seqLookup_cons]
  | cons c rest ih =>
    obtain ⟨a, x⟩ := c
    simp only [handlesRise, Bool.and_eq_true, decide_eq_true_eq] at h
    have ih := ih h.2
    unfold seqInsert
    split
    · rw [seqLookup_cons]
    · split
      · rename_i hqa
        rw [seqLookup_cons, seqLookup_cons, ← hqa]
        by_cases hk : k = q
        · rw [if_pos hk, if_pos hk]
        · rw [if_neg hk, if_neg hk, if_neg hk]
      · rw [seqLookup_cons, seqLookup_cons, ih]
        by_cases hk : k = a
        · have : k ≠ q := by omega
          rw [if_pos hk, if_neg this, if_pos hk]
        · rw [if_neg hk, if_neg hk]

theorem seqInsert_rise {low q : Nat} {l : List (Nat × Seq)} {v : Seq} (h : handlesRise low l = true) (hlow : low ≤ q)
    (hq : q < Config.handleCount) : handlesRise low (seqInsert l q v) = true := by
  induction l generalizing low with
  | nil => simp [seqInsert, handlesRise, hlow, hq]
  | cons c rest ih =>
    obtain ⟨a, x⟩ := c
    simp only [handlesRise, Bool.and_eq_true, decide_eq_true_eq] at h
    unfold seqInsert
    split
    · simp only [handlesRise, Bool.and_eq_true, decide_eq_true_eq]
      exact ⟨⟨hlow, hq⟩, ⟨by omega, h.1.2⟩, h.2⟩
    · split
      · subst_vars
        simp only [handlesRise, Bool.and_eq_true, decide_eq_true_eq]
        exact ⟨⟨hlow, hq⟩, h.2⟩
      · simp only [handlesRise, Bool.and_eq_true, decide_eq_true_eq]
        exact ⟨h.1, ih h.2 (by omega)⟩

theorem seqInsert_mem {l : List (Nat × Seq)} {q : Nat} {v : Seq} {e : Nat × Seq} (h : e ∈ seqInsert l q v) :
    e = (q, v) ∨ e ∈ l := by
  induction l with
  | nil => simpa [seqInsert] using h
  | cons c rest ih =>
    obtain ⟨a, x⟩ := c
    unfold seqInsert at h
    split at h
    · simpa using h
    · split at h
      · rcases List.mem_cons.mp h with h' | h'
        · exact .inl h'
        · exact .inr (List.mem_cons_of_mem _ h')
      · rcases List.mem_cons.mp h with h' | h'
        · exact .inr (h' ▸ List.mem_cons_self)
        · rcases ih h' with h'' | h''
          · exact .inl h''
          · exact .inr (List.mem_cons_of_mem _ h'')

theorem seqErase_mem {l : List (Nat × Seq)} {q : Nat} {e : Nat × Seq} (h : e ∈ seqErase l q) : e ∈ l := by
  induction l with
  | nil => simp [seqErase] at h
  | cons c rest ih =>
    obtain ⟨a, x⟩ := c
    unfold seqErase at h
    split at h
    · exact List.mem_cons_of_mem _ h
    · rcases List.mem_cons.mp h with h' | h'
      · exact h' ▸ List.mem_cons_self
      · exact List.mem_cons_of_mem _ (ih h')

theorem seqLookup_erase {low : Nat} {l : List (Nat × Seq)} (h : handlesRise low l = true) (q k : Nat) :
    seqLookup (seqErase l q) k = if k = q then none else seqLookup l k := by
  induction l generalizing low with
  | nil => simp [seqErase, seqLookup]
  | cons c rest ih =>
    obtain ⟨a, x⟩ := c
    simp only [handlesRise, Bool.and_eq_true, decide_eq_true_eq] at h
    unfold seqErase
    split
    · subst_vars
      rw [seqLookup_cons]
      by_cases hk : k = a
      · rw [if_pos hk, hk]; exact seqLookup_below h.2 (by omega)
      · rw [if_neg hk, if_neg hk]
    · rw [seqLookup_cons, seqLookup_cons, ih h.2]
      by_cases hk : k = a
      · have : k ≠ q := by omega
        rw [if_pos hk, if_neg this, if_pos hk]
      · rw [if_neg hk, if_neg hk]

theorem seqErase_rise {low q : Nat} {l : List (Nat × Seq)} (h : handlesRise low l = true) :
    handlesRise low (seqErase l q) = true := by
  induction l generalizing low with
  | nil => rfl
  | cons c rest ih =>
    obtain ⟨a, x⟩ := c
    simp only [handlesRise, Bool.and_eq_true, decide_eq_true_eq] at h
    unfold seqErase
    split
    · exact handlesRise_weaken (by omega) h.2
    · simp only [handlesRise, Bool.and_eq_true, decide_eq_true_eq]
      exact ⟨h.1, ih h.2⟩

/-- Everything the search for a free handle answers: a free handle, every handle below it (from where it starts) in use. -/
theorem firstFree_spec {low : Nat} {l : List (Nat × Seq)} (h : handlesRise low l = true) :
    low ≤ firstFree l low ∧ seqLookup l (firstFree l low) = none ∧
      ∀ k, low ≤ k → k < firstFree l low → (seqLookup l k).isSome = true := by
  induction l generalizing low with
  | nil => exact ⟨Nat.le_refl _, rfl, fun k h1 h2 => absurd h2 (by simp [firstFree]; omega)⟩
  | cons c rest ih =>
    obtain ⟨a, x⟩ := c
    simp only [handlesRise, Bool.and_eq_true, decide_eq_true_eq] at h
    unfold firstFree
    split
    · subst_vars
      obtain ⟨h1, h2, h3⟩ := ih h.2
      refine ⟨by omega, ?_, fun k hk1 hk2 => ?_⟩
      · rw [seqLookup_cons, if_neg (by omega)]; exact h2
      · rw [seqLookup_cons]
        split
        · rfl
        · exact h3 k (by omega) hk2
    · have hlt : low < a := by omega
      refine ⟨Nat.le_refl _, ?_, fun k hk1 hk2 => by omega⟩
      rw [seqLookup_cons, if_neg (by omega)]
      exact seqLookup_below h.2 (by omega)

/-! ## The current sequence -/

@[simp] theorem State.setSeq_port (s : State) (q : Nat) (v : Seq) : (s.setSeq q v).port = s.port := rfl
@[simp] theorem State.setSeq_fault (s : State) (q : Nat) (v : Seq) : (s.setSeq q v).fault = s.fault := rfl
@[simp] theorem State.setSeq_exec (s : State) (q : Nat) (v : Seq) : (s.setSeq q v).exec = s.exec := rfl
@[simp] theorem State.setSeq_trace (s : State) (q : Nat) (v : Seq) : (s.setSeq q v).trace = s.trace := rfl
@[simp] theorem State.setSeq_seqs (s : State) (q : Nat) (v : Seq) : (s.setSeq q v).seqs = seqInsert s.seqs q v := rfl

/-- Replacing the current pool changes the sequence table and the private record only. -/
theorem State.setCurPool_frame (s : State) (pool : List Memory) :
    s.setCurPool pool = (s.withSeqs (s.setCurPool pool).seqs).withPseq (s.setCurPool pool).pseq := by
  unfold State.setCurPool
  split
  · split <;> rfl
  · rfl

/-- After the replacement the current sequence has that pool and is otherwise the same. -/
theorem State.setCurPool_curSeq {s : State} (h : handlesRise 0 s.seqs = true) {pool : List Memory}
    (hl : ∀ q, s.exec.seq = some q → (s.seqAt q).isSome = true) :
    (s.setCurPool pool).curSeq = { s.curSeq with pool := pool } := by
  unfold State.setCurPool
  cases hq : s.exec.seq with
  | none => simp only [State.curSeq, State.withPseq_exec, hq, State.withPseq_pseq]
  | some q =>
    obtain ⟨v, hv⟩ := Option.isSome_iff_exists.mp (hl q hq)
    simp only [hv]
    have : (s.setSeq q { v with pool := pool }).seqAt q = some { v with pool := pool } := by
      simp only [State.seqAt, State.setSeq_seqs, seqLookup_insert h, if_true]
    simp only [State.curSeq, State.setSeq_exec, hq, this, hv, Option.getD_some]

end Sys2Proof.Machine
end

