-- ==== Sys2Proof/Laws/Commands.lean ====
section
/-! SUPPORT. What the commands can do (43_executor.md R121, R122): clocking does not look at buffers, and a command is its
clocking, the captured bits stored, and `EXEC.NEED_NAV`. -/

namespace Sys2Proof.Machine

open Sys2Proof

/-! ## Clocking and buffers are independent -/

theorem clock_rebuffer (r : State) (tms : Bool) (tdi : Option Bool) (s : State) :
    clock tms tdi (rebuffer r s) = ((clock tms tdi s).1, rebuffer r (clock tms tdi s).2) := by
  cases tdi <;> rfl

theorem walk_rebuffer (r : State) (bits : List Bool) (s : State) : walk bits (rebuffer r s) = rebuffer r (walk bits s) := by
  induction bits generalizing s with
  | nil => rfl
  | cons b rest ih =>
    rw [walk, clock_rebuffer, ih]
    rfl

theorem navigateTo_rebuffer (r : State) (b : TapState) (s : State) :
    navigateTo b (rebuffer r s) = rebuffer r (navigateTo b s) := by
  unfold navigateTo
  rw [walk_rebuffer, show (rebuffer r s).port = s.port from rfl, walk_rebuffer]
  split
  · rfl
  · split <;> rfl

/-- Storing captured bits writes the sequence table and the private record only. -/
theorem storeCapture_frame (tdo : Option Nat) (bits : List Bool) (s : State) :
    storeCapture tdo bits s = (s.withSeqs (storeCapture tdo bits s).seqs).withPseq (storeCapture tdo bits s).pseq := by
  unfold storeCapture
  split
  · rfl
  · split
    · rfl
    · exact State.setCurPool_frame _ _

/-! ## The commands -/

theorem stable_of_legal {st : TapState} {idle : Nat} (h : setStateLegal st idle = true) : idle = 0 ∨ st.stable = true := by
  simp only [setStateLegal, Instr.wellFormed, Bool.and_eq_true, Bool.or_eq_true, decide_eq_true_eq] at h
  exact h.2

/-- Everything the effect of a SETSTATE does. -/
theorem setStateEffect_clocked {st : TapState} {idle : Nat} (h : idle = 0 ∨ st.stable = true) (s : State) :
    (∃ tdo, Clocked s (setStateEffect st idle s) (navBits s.port.cur st ++ List.replicate idle st.holdTms) [] tdo) ∧
      (setStateEffect st idle s).port.cur = st := by
  obtain ⟨t1, h1⟩ := navigateTo_clocked st s
  obtain ⟨t2, h2⟩ := ticks_clocked idle (navigateTo st s)
  have hc := navigateTo_cur st s
  refine ⟨⟨t1 ++ t2, ?_⟩, ?_⟩
  · have := h1.trans h2
    rw [hc] at this
    exact this
  · show (ticks idle (navigateTo st s)).port.cur = st
    rw [ticks_cur (by rw [hc]; exact h), hc]

theorem commandBits_length (v : Seq) (n : Nat) (tdi : TdiSource) : (commandBits v n tdi).length = n := by
  cases tdi with
  | buf h => exact (by simp [commandBits, Memory.stream])
  | fill b => exact List.length_replicate

/-- Where captured bits go depends on the buffers and the executor registers only. -/
theorem storeCapture_congr {x s : State} (h1 : x.seqs = s.seqs) (h2 : x.pseq = s.pseq) (h3 : x.exec = s.exec) (tdo : Option Nat)
    (bits : List Bool) :
    (storeCapture tdo bits x).seqs = (storeCapture tdo bits s).seqs ∧
      (storeCapture tdo bits x).pseq = (storeCapture tdo bits s).pseq := by
  obtain ⟨xp, xpi, xc, xi, xs, xps, xe, xk, xr, xre, xf, xret, xh, xt, xenv⟩ := x
  simp only at h1 h2 h3
  subst h1 h2 h3
  cases tdo with
  | none => exact ⟨rfl, rfl⟩
  | some h =>
    unfold storeCapture State.setCurPool State.curSeq State.seqAt
    dsimp only
    cases s.exec.seq with
    | none =>
      dsimp only
      cases s.pseq.pool[h]? <;> exact ⟨rfl, rfl⟩
    | some q =>
      dsimp only
      cases hs : seqLookup s.seqs q with
      | none =>
        simp only [Option.getD_none]
        cases Seq.empty.pool[h]? <;> exact ⟨rfl, rfl⟩
      | some v =>
        simp only [Option.getD_some]
        cases v.pool[h]? <;> exact ⟨rfl, rfl⟩

theorem storeCapture_exec (tdo : Option Nat) (bits : List Bool) (s : State) : (storeCapture tdo bits s).exec = s.exec := by
  rw [storeCapture_frame]
  rfl

theorem paddedStream_congr {p q : Port} (h : ∀ d, p.prePad d = q.prePad d ∧ p.postPad d = q.postPad d) (dir : Dir)
    (bits : List Bool) : paddedStream p dir bits = paddedStream q dir bits := by
  unfold paddedStream
  rw [(h dir).1, (h dir).2]

theorem Drives.pads {s t : State} (h : Drives s t) (d : Dir) :
    t.port.prePad d = s.port.prePad d ∧ t.port.postPad d = s.port.postPad d := by
  obtain ⟨_, h1, h2, h3, h4, _⟩ := h.port_fields
  cases d
  · exact ⟨congrArg BitVec.toNat h3, congrArg BitVec.toNat h4⟩
  · exact ⟨congrArg BitVec.toNat h1, congrArg BitVec.toNat h2⟩

theorem Drives.curSeq {s t : State} (h : Drives s t) : t.curSeq = s.curSeq := by
  unfold State.curSeq State.seqAt
  rw [h.exec, h.seqs, h.pseq]

/-- The walk into the shift state. -/
theorem enterShift_clocked (dir : Dir) (s : State) :
    ∃ tdo, Clocked s (if s.port.cur = dir.shiftState then s else navigateTo dir.shiftState s)
        (if s.port.cur = dir.shiftState then [] else navBits s.port.cur dir.shiftState) [] tdo ∧
      (if s.port.cur = dir.shiftState then s else navigateTo dir.shiftState s).port.cur = dir.shiftState := by
  split
  · exact ⟨[], Clocked.refl s, ‹_›⟩
  · obtain ⟨t, h⟩ := navigateTo_clocked dir.shiftState s
    exact ⟨t, h, navigateTo_cur _ _⟩

/-- Everything the effect of a SHIFT command does (43_executor.md R122): its clocking, with every buffer put back; the captured
bits stored; `EXEC.NEED_NAV`; and the exit state reached. -/
theorem shiftEffect_clocked {dir : Dir} {n : Nat} (hn : 1 ≤ n) (tdi : TdiSource) (tdo : Option Nat) (exit : TapState) (s : State) :
    ∃ samples,
      Clocked s (rebuffer s (shiftEffect dir n tdi tdo exit s)) (commandTms s.port dir n exit)
          (paddedStream s.port dir (commandBits s.curSeq n tdi)) samples ∧
        (shiftEffect dir n tdi tdo exit s).port.cur = exit ∧
        (shiftEffect dir n tdi tdo exit s).seqs =
          (storeCapture tdo ((samples.drop (enterPulses s.port.cur dir + s.port.prePad dir)).take n) s).seqs ∧
        (shiftEffect dir n tdi tdo exit s).pseq =
          (storeCapture tdo ((samples.drop (enterPulses s.port.cur dir + s.port.prePad dir)).take n) s).pseq ∧
        (shiftEffect dir n tdi tdo exit s).exec =
          { s.exec with needNav := decide (exit ≠ dir.shiftState ∧ exit ≠ dir.exit1State) } := by
  obtain ⟨t1, h1, c1⟩ := enterShift_clocked dir s
  unfold shiftEffect
  generalize hs1 : (if s.port.cur = dir.shiftState then s else navigateTo dir.shiftState s) = s1 at h1 c1
  dsimp only
  rw [h1.drives.curSeq]
  have hl : (commandBits s.curSeq n tdi).length = n := commandBits_length _ _ _
  obtain ⟨t2, h2, e2⟩ := shiftEngine_clocked dir (commandBits s.curSeq n tdi) exit s1
  have c2 := shiftEngine_cur (exit := exit) c1 (by rw [hl]; exact hn)
  rw [hl] at h2 e2
  rw [show paddedBits s1.port dir n = paddedBits s.port dir n from by
    unfold paddedBits; rw [(h1.drives.pads dir).1, (h1.drives.pads dir).2],
    paddedStream_congr (fun d => h1.drives.pads d)] at h2
  rw [(h1.drives.pads dir).1] at e2
  generalize shiftEngine dir (commandBits s.curSeq n tdi) exit s1 = r at h2 e2 c2
  have hneed : decide (r.2.port.cur ≠ exit) = decide (exit ≠ dir.shiftState ∧ exit ≠ dir.exit1State) := by
    rw [c2]
    cases dir <;> cases exit <;> rfl
  have hlen : t1.length = enterPulses s.port.cur dir := by
    rw [h1.sampledCount]
    unfold enterPulses
    split
    · rfl
    · exact navBits_length _ _
  have d12 := h1.drives.trans h2.drives
  have hcap : ∀ t3, (((t1 ++ t2) ++ t3).drop (enterPulses s.port.cur dir + s.port.prePad dir)).take n = r.1 := by
    intro t3
    have hl2 : t2.length = paddedBits s.port dir n := by rw [h2.sampledCount, shiftTms_length]
    rw [e2, ← List.drop_drop, List.append_assoc, ← hlen, List.drop_left, List.drop_append_of_le_length
      (by rw [hl2]; unfold paddedBits; omega), List.take_append_of_le_length
      (by rw [List.length_drop, hl2]; unfold paddedBits; omega)]
  have hstore := storeCapture_congr d12.seqs d12.pseq d12.exec tdo r.1
  generalize hs2 : (storeCapture tdo r.1 r.2).setNeedNav (decide (r.2.port.cur ≠ exit)) = s2
  have hr2 : rebuffer s s2 = r.2 := by
    rw [← hs2, storeCapture_frame]
    have := d12.eq
    generalize r.2 = z at this
    rw [this]
    rfl
  have hseq2 : s2.seqs = (storeCapture tdo r.1 r.2).seqs := by rw [← hs2]; rfl
  have hps2 : s2.pseq = (storeCapture tdo r.1 r.2).pseq := by rw [← hs2]; rfl
  have hex2 : s2.exec = { s.exec with needNav := decide (r.2.port.cur ≠ exit) } := by
    rw [← hs2]
    show ({ (storeCapture tdo r.1 r.2).exec with needNav := _ } : Exec) = _
    rw [storeCapture_exec, d12.exec]
  have hcur2 : s2.port = r.2.port := by rw [← hr2]; rfl
  by_cases hn' : exit ≠ dir.shiftState ∧ exit ≠ dir.exit1State
  · have hd : decide (r.2.port.cur ≠ exit) = true := by rw [hneed]; simpa using hn'
    obtain ⟨t3, h3⟩ := navigateTo_clocked exit r.2
    have hc : r.2.port.cur = dir.exit1State := by rw [c2, if_neg hn'.1]
    have hnav : rebuffer s (navigateTo exit s2) = navigateTo exit r.2 := by rw [← hr2, navigateTo_rebuffer]
    have hdr : (navigateTo exit s2).seqs = s2.seqs ∧ (navigateTo exit s2).pseq = s2.pseq ∧ (navigateTo exit s2).exec = s2.exec := by
      obtain ⟨_, h⟩ := navigateTo_clocked exit s2
      exact ⟨h.drives.seqs, h.drives.pseq, h.drives.exec⟩
    refine ⟨(t1 ++ t2) ++ t3, ?_, ?_, ?_, ?_, ?_⟩
    · rw [hd]
      simp only [if_true]
      rw [hnav]
      have := (h1.trans h2).trans h3
      rw [hc] at this
      unfold commandTms
      rw [if_neg (by rintro (h | h); exacts [hn'.1 h, hn'.2 h] : ¬ (exit = dir.shiftState ∨ exit = dir.exit1State))]
      simpa using this
    · rw [hd]; exact navigateTo_cur _ _
    · rw [hd]; simp only [if_true]; rw [hdr.1, hseq2, hcap]; exact hstore.1
    · rw [hd]; simp only [if_true]; rw [hdr.2.1, hps2, hcap]; exact hstore.2
    · rw [hd]; simp only [if_true]; rw [hdr.2.2, hex2, hneed]
  · have hd : decide (r.2.port.cur ≠ exit) = false := by rw [hneed]; simpa using hn'
    have hor : exit = dir.shiftState ∨ exit = dir.exit1State := by
      by_contra hcon
      exact hn' ⟨fun h => hcon (.inl h), fun h => hcon (.inr h)⟩
    refine ⟨(t1 ++ t2) ++ [], ?_, ?_, ?_, ?_, ?_⟩
    · rw [hd]
      simp only [Bool.false_eq_true, if_false]
      rw [hr2]
      have := h1.trans h2
      unfold commandTms
      rw [if_pos hor]
      simpa using this
    · rw [hd]
      simp only [Bool.false_eq_true, if_false]
      rw [hcur2, c2]
      rcases hor with h | h
      · rw [if_pos h, h]
      · rw [h]; cases dir <;> rfl
    · rw [hd]; simp only [Bool.false_eq_true, if_false]; rw [hseq2, hcap]; exact hstore.1
    · rw [hd]; simp only [Bool.false_eq_true, if_false]; rw [hps2, hcap]; exact hstore.2
    · rw [hd]; simp only [Bool.false_eq_true, if_false]; rw [hex2, hneed]

theorem commandTms_length (p : Port) (dir : Dir) (n : Nat) (exit : TapState) :
    (commandTms p dir n exit).length = enterPulses p.cur dir + paddedBits p dir n + leavePulses dir exit := by
  unfold commandTms enterPulses leavePulses
  rw [List.length_append, List.length_append, shiftTms_length]
  congr 1
  · congr 1
    split
    · rfl
    · exact navBits_length _ _
  · split
    · rfl
    · exact navBits_length _ _

end Sys2Proof.Machine
end

