-- ==== Sys2Proof/Laws/Encoding.lean ====
section
/-! SUPPORT. Laws of encodings: state codes, the fields of the two command formats (30_encoding.md R71, R72), and the pieces of a
host record. -/

namespace Sys2Proof

@[simp] theorem tapStateOf_code (st : TapState) : tapStateOf st.code = st := by cases st <;> rfl

theorem code_tapStateOf (c : BitVec 4) : (tapStateOf c).code = c := by
  revert c
  decide

/-! ## Bits of a concatenation -/

/-- A bit below the lower part's width is the lower part's. -/
theorem append_low {m k : Nat} (x : BitVec m) (y : BitVec k) {i : Nat} (h : i < k) : (x ++ y).getLsbD i = y.getLsbD i := by
  rw [BitVec.getLsbD_append, if_pos h]

/-- A bit from the lower part's width on is the upper part's. -/
theorem append_high {m k : Nat} (x : BitVec m) (y : BitVec k) {i : Nat} (h : k ≤ i) :
    (x ++ y).getLsbD i = x.getLsbD (i - k) := by
  rw [BitVec.getLsbD_append, if_neg (Nat.not_lt.mpr h)]

/-- A field is a value when its bits are. -/
theorem field_eq {m k lo : Nat} {w : BitVec m} {v : BitVec k} (h : ∀ i, i < k → w.getLsbD (lo + i) = v.getLsbD i) :
    w.extractLsb' lo k = v := by
  ext i hi
  rw [BitVec.getElem_extractLsb', h i hi, BitVec.getLsbD_eq_getElem]

/-! ## The fields of a SETSTATE word -/

theorem encodeSetState_kind (st : TapState) (idle : Nat) : (encodeSetState st idle).getLsbD 0 = false := by
  simp (disch := omega) only [encodeSetState, append_low]
  rfl

theorem encodeSetState_state (st : TapState) (idle : Nat) : (encodeSetState st idle).extractLsb' 1 4 = st.code :=
  field_eq fun i hi => by
    simp (disch := omega) only [encodeSetState, append_low, append_high, Nat.add_sub_cancel_left]

theorem encodeSetState_low (st : TapState) (idle : Nat) : (encodeSetState st idle).extractLsb' 5 3 = 0#3 :=
  field_eq fun i hi => by
    simp (disch := omega) only [encodeSetState, append_low, append_high, BitVec.getLsbD_zero]

theorem encodeSetState_idle (st : TapState) (idle : Nat) :
    (encodeSetState st idle).extractLsb' 8 32 = BitVec.ofNat 32 idle :=
  field_eq fun i hi => by
    simp (disch := omega) only [encodeSetState, append_low, append_high]
    congr 1
    omega

theorem encodeSetState_high (st : TapState) (idle : Nat) : (encodeSetState st idle).extractLsb' 40 24 = 0#24 :=
  field_eq fun i hi => by
    simp (disch := omega) only [encodeSetState, append_high, BitVec.getLsbD_zero]

/-! ## The fields of a SHIFT word -/

variable (dir : Dir) (n : Nat) (tdi : TdiSource) (tdo : Option Nat) (exit : TapState)

theorem encodeShift_kind : (encodeShift dir n tdi tdo exit).getLsbD 0 = true := by
  simp (disch := omega) only [encodeShift, append_low]
  rfl

theorem encodeShift_dir : (encodeShift dir n tdi tdo exit).getLsbD 1 = dir.bit := by
  simp (disch := omega) only [encodeShift, append_low, append_high]
  simp

theorem encodeShift_in : (encodeShift dir n tdi tdo exit).getLsbD 2 = tdi.present := by
  simp (disch := omega) only [encodeShift, append_low, append_high]
  simp

theorem encodeShift_out : (encodeShift dir n tdi tdo exit).getLsbD 3 = tdo.isSome := by
  simp (disch := omega) only [encodeShift, append_low, append_high]
  simp

theorem encodeShift_fill : (encodeShift dir n tdi tdo exit).getLsbD 4 = tdi.fillBit := by
  simp (disch := omega) only [encodeShift, append_low, append_high]
  simp

theorem encodeShift_exit : (encodeShift dir n tdi tdo exit).extractLsb' 5 4 = exit.code :=
  field_eq fun i hi => by
    simp (disch := omega) only [encodeShift, append_low, append_high]
    congr 1
    omega

theorem encodeShift_count : (encodeShift dir n tdi tdo exit).extractLsb' 9 23 = BitVec.ofNat 23 n :=
  field_eq fun i hi => by
    simp (disch := omega) only [encodeShift, append_low, append_high]
    congr 1
    omega

theorem encodeShift_tdi : (encodeShift dir n tdi tdo exit).extractLsb' 32 16 = tdi.handleBits :=
  field_eq fun i hi => by
    simp (disch := omega) only [encodeShift, append_low, append_high]
    congr 1
    omega

theorem encodeShift_tdo : (encodeShift dir n tdi tdo exit).extractLsb' 48 16 = BitVec.ofNat 16 (tdo.getD 0) :=
  field_eq fun i hi => by
    simp (disch := omega) only [encodeShift, append_high]
    congr 1
    omega

/-! ## The pieces of a host record -/

theorem natBytes_length (n v : Nat) : (natBytes n v).length = n := by
  induction n generalizing v with
  | zero => rfl
  | succ n ih => simp [natBytes, ih]

theorem bytesNat_natBytes (n v : Nat) : bytesNat (natBytes n v) = v % 256 ^ n := by
  induction n generalizing v with
  | zero => simp [natBytes, bytesNat, Nat.mod_one]
  | succ n ih =>
    simp only [natBytes, bytesNat, ih, BitVec.toNat_ofNat]
    show v % 256 + 256 * (v / 256 % 256 ^ n) = v % 256 ^ (n + 1)
    rw [pow_succ, Nat.mul_comm (256 ^ n) 256, Nat.mod_mul]

theorem putNum_length (v : Nat) : (putNum v).length = 8 := natBytes_length 8 v

/-- A number read back, with what stands after it. -/
theorem takeNum_putNum (op : Byte) {v : Nat} (h : fitsOperand v = true) (rest : List Byte) :
    takeNum op (putNum v ++ rest) = .ok (v, rest) := by
  have hl : (putNum v).length = 8 := putNum_length v
  simp only [fitsOperand, decide_eq_true_eq] at h
  unfold takeNum
  rw [if_neg (by rw [List.length_append, hl]; omega), ← hl, List.take_left, List.drop_left, putNum, bytesNat_natBytes,
    Nat.mod_eq_of_lt (by simpa using h)]

theorem takeState_putState (op : Byte) (st : TapState) (rest : List Byte) :
    takeState op (putState st ++ rest) = .ok (st, rest) := by cases st <;> rfl

theorem takeBit_putBit (op : Byte) (b : Bool) (rest : List Byte) : takeBit op (putBit b ++ rest) = .ok (b, rest) := by
  cases b <;> rfl

/-- A byte string read back, with what stands after it. -/
theorem takeBytes_putBytes (op : Byte) {bs : List Byte} (h : fitsOperand bs.length = true) (rest : List Byte) :
    takeBytes op (putBytes bs ++ rest) = .ok (bs, rest) := by
  unfold takeBytes putBytes
  rw [List.append_assoc, takeNum_putNum op h]
  show (if (bs ++ rest).length < bs.length then _ else _) = _
  rw [if_neg (by rw [List.length_append]; omega), List.take_left, List.drop_left]

/-! ## Streams -/

theorem natBits_length (n v : Nat) : (natBits n v).length = n := by simp [natBits]

theorem bytesBits_length (n : Nat) (bs : List Byte) : (bytesBits n bs).length = n := by simp [bytesBits]

theorem bitsNat_lt (bs : List Bool) : bitsNat bs < 2 ^ bs.length := by
  induction bs with
  | nil => simp [bitsNat]
  | cons b rest ih =>
    rw [bitsNat, List.length_cons, Nat.pow_succ]
    cases b <;> simp <;> omega

theorem bitsBytes_length (bits : List Bool) : (bitsBytes bits).length = bytesFor bits.length := natBytes_length _ _

end Sys2Proof
end

