-- ==== Sys2Proof/Laws/Memory.lean ====
section
/-! SUPPORT. Laws of buffers: read after write, sizes, and that every memory operation keeps the canonical form. -/

namespace Sys2Proof.Machine

open Sys2Proof

/-! ## Cell lists -/

theorem cellsWf_weaken {size low low' : Nat} {l : List Host.Cell} (hle : low' ≤ low) (h : cellsWf size low l = true) :
    cellsWf size low' l = true := by
  cases l with
  | nil => rfl
  | cons c rest =>
    obtain ⟨a, b⟩ := c
    simp only [cellsWf, Bool.and_eq_true, decide_eq_true_eq] at h ⊢
    exact ⟨⟨⟨by omega, h.1.1.2⟩, h.1.2⟩, h.2⟩

theorem lookupCell_below {size low k : Nat} {l : List Host.Cell} (h : cellsWf size low l = true) (hk : k < low) :
    lookupCell l k = unlistedByte := by
  induction l generalizing low with
  | nil => rfl
  | cons c rest ih =>
    obtain ⟨a, b⟩ := c
    simp only [cellsWf, Bool.and_eq_true, decide_eq_true_eq] at h
    have hne : a ≠ k := by omega
    simp only [lookupCell, hne, if_false]
    exact ih h.2 (by omega)

theorem lookupCell_cons (a : Nat) (b : Byte) (l : List Host.Cell) (k : Nat) :
    lookupCell ((a, b) :: l) k = if k = a then b else lookupCell l k := by
  simp only [lookupCell]
  by_cases h : a = k
  · subst h; simp
  · rw [if_neg h, if_neg (fun e => h e.symm)]

theorem lookupCell_insertCell {size low : Nat} {l : List Host.Cell} (h : cellsWf size low l = true) (k j : Nat) (v : Byte) :
    lookupCell (insertCell l k v) j = if j = k then v else lookupCell l j := by
  induction l generalizing low with
  | nil =>
    unfold insertCell
    split
    · subst_vars; simp [lookupCell]
    · rw [lookupCell_cons]
  | cons c rest ih =>
    obtain ⟨a, b⟩ := c
    simp only [cellsWf, Bool.and_eq_true, decide_eq_true_eq] at h
    have ih := ih h.2
    have below : ∀ m, m < a + 1 → lookupCell rest m = unlistedByte := fun m hm => lookupCell_below h.2 hm
    unfold insertCell
    split
    · have hk := below k (by omega)
      have hka : k ≠ a := by omega
      split
      · subst_vars
        rw [lookupCell_cons]
        by_cases hj : j = k
        · subst hj; rw [if_neg hka, if_pos rfl, hk]
        · rw [if_neg hj]
      · rw [lookupCell_cons]
    · split
      · rename_i hka
        rw [lookupCell_cons, ← hka]
        split
        · by_cases hj : j = k
          · rw [if_pos hj, hj, below k (by omega)]
            exact (by assumption : v = unlistedByte).symm
          · rw [if_neg hj, if_neg hj]
        · rw [lookupCell_cons]
          by_cases hj : j = k
          · rw [if_pos hj, if_pos hj]
          · rw [if_neg hj, if_neg hj, if_neg hj]
      · rw [lookupCell_cons, lookupCell_cons, ih]
        by_cases hj : j = a
        · have : j ≠ k := by omega
          rw [if_pos hj, if_neg this, if_pos hj]
        · rw [if_neg hj, if_neg hj]

theorem insertCell_wf {size low k : Nat} {l : List Host.Cell} {v : Byte} (h : cellsWf size low l = true) (hlow : low ≤ k)
    (hk : k < size) : cellsWf size low (insertCell l k v) = true := by
  induction l generalizing low with
  | nil =>
    by_cases hv : v = unlistedByte <;> simp [insertCell, hv, cellsWf, hlow, hk]
  | cons c rest ih =>
    obtain ⟨a, b⟩ := c
    have h' := h
    simp only [cellsWf, Bool.and_eq_true, decide_eq_true_eq] at h
    unfold insertCell
    split
    · split
      · exact h'
      · rename_i hv
        simp only [cellsWf, Bool.and_eq_true, decide_eq_true_eq]
        exact ⟨⟨⟨hlow, hk⟩, hv⟩, ⟨⟨⟨by omega, h.1.1.2⟩, h.1.2⟩, h.2⟩⟩
    · split
      · subst_vars
        split
        · exact cellsWf_weaken (by omega) h.2
        · rename_i hv
          simp only [cellsWf, Bool.and_eq_true, decide_eq_true_eq]
          exact ⟨⟨⟨hlow, hk⟩, hv⟩, h.2⟩
      · simp only [cellsWf, Bool.and_eq_true, decide_eq_true_eq]
        exact ⟨h.1, ih h.2 (by omega)⟩

/-! ## One byte -/

@[simp] theorem newBuffer_size (n : Nat) : (newBuffer n).size = n := rfl
@[simp] theorem newBuffer_byteAt (n o : Nat) : (newBuffer n).byteAt o = 0#8 := rfl
@[simp] theorem newBuffer_wf (n : Nat) : (newBuffer n).wf = true := rfl

@[simp] theorem Memory.setByte_size (m : Memory) (o : Nat) (v : Byte) : (m.setByte o v).size = m.size := by
  unfold Memory.setByte; split <;> rfl

theorem Memory.setByte_byteAt {m : Memory} (h : m.wf = true) {o : Nat} (ho : o < m.size) (v : Byte) (j : Nat) :
    (m.setByte o v).byteAt j = if j = o then v else m.byteAt j := by
  unfold Memory.setByte
  rw [if_pos ho]
  exact lookupCell_insertCell h o j v

theorem Memory.setByte_wf {m : Memory} (h : m.wf = true) (o : Nat) (v : Byte) : (m.setByte o v).wf = true := by
  unfold Memory.setByte
  split
  · exact insertCell_wf h (Nat.zero_le _) ‹_›
  · exact h

/-! ## Runs of bytes -/

@[simp] theorem Memory.setBytes_size (m : Memory) (o : Nat) (bs : List Byte) : (m.setBytes o bs).size = m.size := by
  induction bs generalizing m o with
  | nil => rfl
  | cons b bs ih => simp [Memory.setBytes, ih]

theorem Memory.setBytes_wf {m : Memory} (h : m.wf = true) (o : Nat) (bs : List Byte) : (m.setBytes o bs).wf = true := by
  induction bs generalizing m o with
  | nil => exact h
  | cons b bs ih => exact ih (Memory.setByte_wf h o b) (o + 1)

theorem Memory.setBytes_byteAt {m : Memory} (h : m.wf = true) {o : Nat} {bs : List Byte} (hb : o + bs.length ≤ m.size) (j : Nat) :
    (m.setBytes o bs).byteAt j = if o ≤ j ∧ j < o + bs.length then bs.getD (j - o) 0#8 else m.byteAt j := by
  induction bs generalizing m o with
  | nil =>
    simp [Memory.setBytes]
  | cons b bs ih =>
    simp only [List.length_cons] at hb
    rw [Memory.setBytes, ih (Memory.setByte_wf h o b) (by simp; omega), Memory.setByte_byteAt h (by omega)]
    simp only [List.length_cons]
    by_cases hj : j = o
    · subst hj
      simp
    · by_cases hr : o + 1 ≤ j ∧ j < o + 1 + bs.length
      · have h1 : o ≤ j ∧ j < o + (bs.length + 1) := by omega
        obtain ⟨d, hd⟩ : ∃ d, j - o = d + 1 := ⟨j - o - 1, by omega⟩
        have hd' : j - (o + 1) = d := by omega
        rw [if_pos hr, if_pos h1, hd, hd', List.getD_cons_succ]
      · have h1 : ¬ (o ≤ j ∧ j < o + (bs.length + 1)) := by omega
        rw [if_neg hr, if_neg h1, if_neg hj]

theorem Memory.slice_length (m : Memory) (o n : Nat) : (m.slice o n).length = n := by
  induction n generalizing o with
  | zero => rfl
  | succ n ih => simp [Memory.slice, ih]

theorem Memory.slice_getD (m : Memory) (o n k : Nat) (hk : k < n) : (m.slice o n).getD k 0#8 = m.byteAt (o + k) := by
  induction n generalizing o k with
  | zero => omega
  | succ n ih =>
    cases k with
    | zero => simp [Memory.slice]
    | succ k =>
      simp only [Memory.slice, List.getD_cons_succ]
      rw [ih (o + 1) k (by omega)]
      congr 1
      omega

/-! ## Bits -/

@[simp] theorem Memory.setBitAt_size (m : Memory) (i : Nat) (b : Bool) : (m.setBitAt i b).size = m.size :=
  Memory.setByte_size _ _ _

theorem Memory.setBitAt_wf {m : Memory} (h : m.wf = true) (i : Nat) (b : Bool) : (m.setBitAt i b).wf = true :=
  Memory.setByte_wf h _ _

theorem setBit_getLsbD (x : Byte) {k j : Nat} (hk : k < 8) (hj : j < 8) (b : Bool) :
    (setBit x k b).getLsbD j = if j = k then b else x.getLsbD j := by
  unfold setBit
  cases b
  · rw [if_neg (by simp), BitVec.getLsbD_and, BitVec.getLsbD_not, BitVec.getLsbD_shiftLeft]
    by_cases h : j = k
    · subst h; simp [hj]
    · have : decide (j < k) = false ∨ decide (j < k) = true := by cases decide (j < k) <;> simp
      by_cases hlt : j < k
      · simp [hj, h, hlt]
      · have : ¬ j - k = 0 := by omega
        simp [hj, h, hlt, this]
  · rw [if_pos rfl, BitVec.getLsbD_or, BitVec.getLsbD_shiftLeft]
    by_cases h : j = k
    · subst h; simp [hj]
    · by_cases hlt : j < k
      · simp [h, hlt]
      · have : ¬ j - k = 0 := by omega
        simp [h, this]

@[simp] theorem Memory.setStream_size (m : Memory) (i : Nat) (bs : List Bool) : (m.setStream i bs).size = m.size := by
  induction bs generalizing m i with
  | nil => rfl
  | cons b bs ih => simp [Memory.setStream, ih]

theorem Memory.setStream_wf {m : Memory} (h : m.wf = true) (i : Nat) (bs : List Bool) : (m.setStream i bs).wf = true := by
  induction bs generalizing m i with
  | nil => exact h
  | cons b bs ih => exact ih (Memory.setBitAt_wf h i b) (i + 1)

@[simp] theorem Memory.stream_length (m : Memory) (n : Nat) : (m.stream n).length = n := by simp [Memory.stream]

/-! ## Pools -/

/-- Everything a buffer write does when it succeeds. -/
theorem memWrite_spec {pool pool' : List Memory} {h o : Nat} {bs : List Byte} (e : memWrite pool h o bs = some pool') :
    ∃ m, pool[h]? = some m ∧ o + bs.length ≤ m.size ∧ pool' = pool.set h (m.setBytes o bs) := by
  unfold memWrite at e
  split at e
  · simp at e
  · split at e
    · exact ⟨_, ‹_›, ‹_›, by simpa using e.symm⟩
    · simp at e

/-- Everything a buffer read does when it succeeds. -/
theorem memRead_spec {pool : List Memory} {h o n : Nat} {bs : List Byte} (e : memRead pool h o n = some bs) :
    ∃ m, pool[h]? = some m ∧ o + n ≤ m.size ∧ bs = m.slice o n := by
  unfold memRead at e
  split at e
  · simp at e
  · split at e
    · exact ⟨_, ‹_›, ‹_›, by simpa using e.symm⟩
    · simp at e

theorem pool_set_wf {pool : List Memory} (h : pool.all Memory.wf = true) (k : Nat) {m : Memory} (hm : m.wf = true) :
    (pool.set k m).all Memory.wf = true := by
  rw [List.all_eq_true] at h ⊢
  intro x hx
  rcases List.mem_or_eq_of_mem_set hx with h' | rfl
  · exact h x h'
  · exact hm

theorem memWrite_wf {pool pool' : List Memory} {h o : Nat} {bs : List Byte} (hw : pool.all Memory.wf = true)
    (e : memWrite pool h o bs = some pool') : pool'.all Memory.wf = true := by
  obtain ⟨m, hm, _, rfl⟩ := memWrite_spec e
  have : m ∈ pool := List.mem_of_getElem? hm
  exact pool_set_wf hw h (Memory.setBytes_wf (List.all_eq_true.mp hw m this) o bs)

end Sys2Proof.Machine
end

