-- ==== Sys2Proof/Laws/Outcome.lean ====
section
/-! SUPPORT. What the shared wrappers of an operation answer, and the fields its outcomes write. -/

namespace Sys2Proof.Machine

open Sys2Proof

/-! ## The outcomes of an operation -/

@[simp] theorem takeFault_fault (r : FaultReason) (s : State) : (takeFault r s).fault = some r := rfl
@[simp] theorem takeFault_result (r : FaultReason) (s : State) : (takeFault r s).result = s.result := rfl
@[simp] theorem takeFault_port (r : FaultReason) (s : State) : (takeFault r s).port = s.port := rfl
@[simp] theorem takeFault_seqs (r : FaultReason) (s : State) : (takeFault r s).seqs = s.seqs := rfl
@[simp] theorem takeFault_trace (r : FaultReason) (s : State) : (takeFault r s).trace = s.trace := rfl
@[simp] theorem raiseError_fault (e : ErrorCode) (s : State) : (raiseError e s).fault = s.fault := rfl
@[simp] theorem raiseError_result (e : ErrorCode) (s : State) : (raiseError e s).result = e.word := rfl
@[simp] theorem raiseError_port (e : ErrorCode) (s : State) : (raiseError e s).port = s.port := rfl
@[simp] theorem raiseError_seqs (e : ErrorCode) (s : State) : (raiseError e s).seqs = s.seqs := rfl
@[simp] theorem raiseError_trace (e : ErrorCode) (s : State) : (raiseError e s).trace = s.trace := rfl
@[simp] theorem complete_fault (v : Returned) (s : State) : (complete v s).fault = s.fault := rfl
@[simp] theorem complete_result (v : Returned) (s : State) : (complete v s).result = okWord := rfl
@[simp] theorem complete_returned (v : Returned) (s : State) : (complete v s).returned = v := rfl
@[simp] theorem complete_port (v : Returned) (s : State) : (complete v s).port = s.port := rfl
@[simp] theorem complete_seqs (v : Returned) (s : State) : (complete v s).seqs = s.seqs := rfl
@[simp] theorem complete_trace (v : Returned) (s : State) : (complete v s).trace = s.trace := rfl

/-- The three outcomes write the outcome fields and `FAULT` only. -/
theorem outcome_frame (r : FaultReason) (e : ErrorCode) (v : Returned) (s : State) :
    takeFault r s = (s.withFault (some r)).withReturned .nothing ∧ unreport s (raiseError e s) = s ∧
      unreport s (complete v s) = s := ⟨rfl, rfl, rfl⟩

/-! ## The wrappers -/

/-- Everything `operation` can answer: stuck, `NotInitialised`, or the body. -/
theorem operation_spec (body : State → State) (s : State) :
    operation body s = .next (if s.fault.isSome then stuck s else if s.port.init then body s else takeFault .notInitialised s) :=
  rfl

theorem operation_ready {s : State} (h : s.ready) (body : State → State) : operation body s = .next (body s) := by
  rw [operation_spec, h.2, h.1]
  rfl

theorem unlessFaulted_live {s : State} (h : s.fault = none) (body : State → State) : unlessFaulted body s = .next (body s) := by
  unfold unlessFaulted
  rw [h]
  rfl

theorem unlessFaulted_faulted {s : State} {r : FaultReason} (h : s.fault = some r) (body : State → State) :
    unlessFaulted body s = .next (stuck s) := by
  unfold unlessFaulted
  rw [h]
  rfl

theorem operation_faulted {s : State} {r : FaultReason} (h : s.fault = some r) (body : State → State) :
    operation body s = .next (stuck s) := unlessFaulted_faulted h _

theorem withinWidths_spec (ws : List (Nat × Nat)) (body : State → State) (s : State) :
    (fitAll ws = true ∧ withinWidths ws body s = body s) ∨
      (fitAll ws = false ∧ withinWidths ws body s = takeFault .valueTooWide s) := by
  unfold withinWidths
  cases fitAll ws <;> simp

theorem fitAll_cons (v w : Nat) (rest : List (Nat × Nat)) : fitAll ((v, w) :: rest) = true ↔ v < 2 ^ w ∧ fitAll rest = true := by
  simp [fitAll]

theorem withTarget_spec (body : Family → Nat → State → State) (s : State) :
    (∃ f, s.port.family = some f ∧ s.port.irLen ≠ 0#8 ∧ s.port.segments = 1#8 ∧
        withTarget body s = body f s.port.irLen.toNat s) ∨
      ((s.port.family = none ∨ s.port.irLen = 0#8) ∧ withTarget body s = raiseError .noTarget s) ∨
      (s.port.family ≠ none ∧ s.port.irLen ≠ 0#8 ∧ s.port.segments ≠ 1#8 ∧ withTarget body s = raiseError .multiSegment s) := by
  unfold withTarget
  cases hf : s.port.family with
  | none => exact .inr (.inl ⟨.inl rfl, rfl⟩)
  | some f =>
    by_cases hi : s.port.irLen = 0#8
    · exact .inr (.inl ⟨.inr hi, by simp [hi]⟩)
    · by_cases hs : s.port.segments = 1#8
      · exact .inl ⟨f, rfl, hi, hs, by simp [hi, hs]⟩
      · exact .inr (.inr ⟨by simp, hi, hs, by simp [hi, hs]⟩)

/-- Everything a protocol operation can answer, when the block is ready: `PSEQ` is emptied, then the checks of 46_efuse.md R146, then the
body. -/
theorem protocolOperation_ready {s : State} (h : s.ready) (body : Family → Nat → State → State) :
    protocolOperation body s = .next (withTarget body (s.withPseq Seq.empty)) := operation_ready h _

theorem withSeq_spec (q : Nat) (body : Seq → State → State) (s : State) :
    (s.seqAt q = none ∧ withSeq q body s = takeFault .badHandle s) ∨
      ∃ v, s.seqAt q = some v ∧ withSeq q body s = body v s := by
  unfold withSeq
  cases h : s.seqAt q with
  | none => exact .inl ⟨rfl, rfl⟩
  | some v => exact .inr ⟨v, rfl, rfl⟩

theorem withOpenSeq_spec (q : Nat) (body : Seq → State → State) (s : State) :
    (s.seqAt q = none ∧ withOpenSeq q body s = takeFault .badHandle s) ∨
      ∃ v, s.seqAt q = some v ∧
        ((v.consumed = true ∧ withOpenSeq q body s = takeFault .sequenceConsumed s) ∨
          (v.consumed = false ∧ withOpenSeq q body s = body v s)) := by
  unfold withOpenSeq
  rcases withSeq_spec q (fun v s => if v.consumed then takeFault .sequenceConsumed s else body v s) s with h | ⟨v, hv, h⟩
  · exact .inl h
  · refine .inr ⟨v, hv, ?_⟩
    cases hc : v.consumed
    · exact .inr ⟨rfl, by rw [h, hc]; rfl⟩
    · exact .inl ⟨rfl, by rw [h, hc]; rfl⟩

theorem withKey_spec (body : State → State) (s : State) :
    (s.key.loaded = true ∧ withKey body s = body s) ∨ (s.key.loaded = false ∧ withKey body s = takeFault .keyNotLoaded s) := by
  unfold withKey
  cases s.key.loaded <;> simp

/-! ## Refused records -/

/-- `t` has the trace, the pins, the Port and the sequences of `s`. -/
structure Quiet (s t : State) : Prop where
  trace : t.trace = s.trace
  pins : t.pins = s.pins
  port : t.port = s.port
  seqs : t.seqs = s.seqs

theorem takeFault_quiet (r : FaultReason) (s : State) : Quiet s (takeFault r s) := ⟨rfl, rfl, rfl, rfl⟩

theorem withSeq_quiet (q : Nat) (r : FaultReason) (s : State) : Quiet s (withSeq q (fun _ => takeFault r) s) := by
  rcases withSeq_spec q (fun _ => takeFault r) s with ⟨_, h⟩ | ⟨_, _, h⟩ <;> rw [h] <;> exact takeFault_quiet _ s

theorem withOpenSeq_quiet (q : Nat) (r : FaultReason) (s : State) : Quiet s (withOpenSeq q (fun _ => takeFault r) s) := by
  rcases withOpenSeq_spec q (fun _ => takeFault r) s with ⟨_, h⟩ | ⟨_, _, ⟨_, h⟩ | ⟨_, h⟩⟩ <;> rw [h] <;>
    exact takeFault_quiet _ s

theorem withTarget_quiet (r : FaultReason) (s : State) :
    Quiet s (withTarget (fun _ _ => takeFault r) (s.withPseq Seq.empty)) := by
  rcases withTarget_spec (fun _ _ => takeFault r) (s.withPseq Seq.empty) with ⟨_, _, _, _, h⟩ | ⟨_, h⟩ | ⟨_, _, _, h⟩ <;>
    rw [h] <;> exact ⟨rfl, rfl, rfl, rfl⟩

theorem refuseArguments_quiet (op : Byte) (args : List Byte) (r : FaultReason) (s : State) :
    Quiet s (refuseArguments op args r s) := by
  unfold refuseArguments
  split
  exacts [withOpenSeq_quiet _ _ s, withOpenSeq_quiet _ _ s, withSeq_quiet _ _ s, withSeq_quiet _ _ s, withTarget_quiet _ s,
    withTarget_quiet _ s, takeFault_quiet _ s]

/-- Whatever a refused record is, nothing is driven and no sequence changes. -/
theorem refuseRecord_quiet (record : List Byte) (e : DecodeError) (s : State) : Quiet s (refuseRecord record e s) := by
  unfold refuseRecord
  cases e <;> dsimp only
  case unknownOp | reservedBits | strayField => exact takeFault_quiet _ s
  all_goals
    split
    · exact takeFault_quiet _ s
    · split
      · exact takeFault_quiet _ s
      · exact refuseArguments_quiet _ _ _ s

/-! ## The fetch -/

/-- Which run is in progress: none before PORT_INIT (70_reset_and_hazards.md R197). -/
theorem activeRun_spec (s : State) :
    (s.port.init = true ∧ s.activeRun = s.exec.seq) ∨ (s.port.init = false ∧ s.activeRun = none) := by
  unfold State.activeRun
  cases s.port.init <;> simp

theorem activeRun_ready {s : State} (h : s.ready) : s.activeRun = s.exec.seq := by
  unfold State.activeRun
  rw [if_pos h.1]

/-- Everything the fetch can find, with no run in progress and with one. -/
theorem fetch_spec (s : State) :
    (s.activeRun = none ∧ ((s.hostQueue = [] ∧ fetch s = .idle) ∨ ∃ r rest, s.hostQueue = r :: rest ∧ fetch s = .host r rest)) ∨
      ∃ q, s.activeRun = some q ∧
        ((s.seqAt q = none ∧ fetch s = .lost) ∨
          ∃ v, s.seqAt q = some v ∧
            ((v.cmds[s.exec.pc]? = none ∧ fetch s = .runEnd) ∨ ∃ w, v.cmds[s.exec.pc]? = some w ∧ fetch s = .command w)) := by
  unfold fetch
  cases s.activeRun with
  | none => cases s.hostQueue with
    | nil => exact .inl ⟨rfl, .inl ⟨rfl, rfl⟩⟩
    | cons r rest => exact .inl ⟨rfl, .inr ⟨r, rest, rfl, rfl⟩⟩
  | some q =>
    refine .inr ⟨q, rfl, ?_⟩
    dsimp only
    cases s.seqAt q with
    | none => exact .inl ⟨rfl, rfl⟩
    | some v =>
      refine .inr ⟨v, rfl, ?_⟩
      dsimp only
      cases v.cmds[s.exec.pc]? with
      | none => exact .inl ⟨rfl, rfl⟩
      | some w => exact .inr ⟨w, rfl, rfl⟩

/-- Every instruction answers a next state: the block stops by `FAULT`, a register (60_exceptions.md R176). -/
theorem exec_next (i : Instr) (s : State) : ∃ t, exec i s = .next t := by
  cases i <;> exact ⟨_, rfl⟩

end Sys2Proof.Machine
end

