-- ==== Sys2Proof/Laws/PerInstr.lean ====
section
/-! SUPPORT. Statements about every instruction as text of the encoding, one lemma per constructor: what a record or a word begins
with (30_encoding.md R70, R77). -/

namespace Sys2Proof.Laws

open Sys2Proof

/-- The opcode of a host operation (30_encoding.md R77); a command has none. -/
def hostOpcode : Instr → Option Byte
  | .setState _ _ => none
  | .shiftDr _ _ _ _ => none
  | .shiftIr _ _ _ _ => none
  | .portInit _ => some 0x01#8
  | .navigate _ => some 0x02#8
  | .pulse _ => some 0x03#8
  | .shift _ _ _ _ _ => some 0x04#8
  | .seqCreate _ => some 0x10#8
  | .seqAddState _ _ _ => some 0x11#8
  | .seqAddShift _ _ _ _ _ _ => some 0x12#8
  | .seqClear _ => some 0x13#8
  | .seqDelete _ => some 0x14#8
  | .bufWrite _ _ _ _ => some 0x15#8
  | .bufRead _ _ _ _ => some 0x16#8
  | .seqRun _ => some 0x17#8
  | .detectTaps => some 0x20#8
  | .identify _ => some 0x21#8
  | .setPads _ _ _ _ => some 0x22#8
  | .selectTarget _ => some 0x23#8
  | .jprogram => some 0x30#8
  | .efuseProgramRow _ _ _ _ => some 0x31#8
  | .efuseReadRow _ _ _ => some 0x32#8
  | .keyLoad _ _ _ => some 0x40#8
  | .bbramProgram => some 0x41#8
  | .bbramVerify => some 0x42#8
  | .keyReadback => some 0x43#8

/-- A host operation's record begins with its opcode; a command is one word. -/
def Opcode.Statement (i : Instr) : Prop :=
  match hostOpcode i with
  | some op => ∃ rest, encode i = .hostOp (op :: rest)
  | none => ∃ w, encode i = .command w

theorem Opcode.setState (st : TapState) (idle : Nat) : Opcode.Statement (.setState st idle) := ⟨_, rfl⟩
theorem Opcode.shiftDr (n : Nat) (a : TdiSource) (b : Option Nat) (e : TapState) : Opcode.Statement (.shiftDr n a b e) := ⟨_, rfl⟩
theorem Opcode.shiftIr (n : Nat) (a : TdiSource) (b : Option Nat) (e : TapState) : Opcode.Statement (.shiftIr n a b e) := ⟨_, rfl⟩
theorem Opcode.portInit (m : PinMap) : Opcode.Statement (.portInit m) := ⟨_, rfl⟩
theorem Opcode.navigate (st : TapState) : Opcode.Statement (.navigate st) := ⟨_, rfl⟩
theorem Opcode.pulse (n : Nat) : Opcode.Statement (.pulse n) := ⟨_, rfl⟩
theorem Opcode.shift (d : Dir) (n : Nat) (m : TdiMode) (c : Bool) (e : TapState) : Opcode.Statement (.shift d n m c e) := ⟨_, rfl⟩
theorem Opcode.seqCreate (n : Nat) : Opcode.Statement (.seqCreate n) := ⟨_, rfl⟩
theorem Opcode.seqAddState (q : Nat) (st : TapState) (i : Nat) : Opcode.Statement (.seqAddState q st i) := ⟨_, rfl⟩
theorem Opcode.seqAddShift (q f n : Nat) (a b : Bool) (e : TapState) : Opcode.Statement (.seqAddShift q f n a b e) := ⟨_, rfl⟩
theorem Opcode.seqClear (q : Nat) : Opcode.Statement (.seqClear q) := ⟨_, rfl⟩
theorem Opcode.seqDelete (q : Nat) : Opcode.Statement (.seqDelete q) := ⟨_, rfl⟩
theorem Opcode.bufWrite (q h o : Nat) (v : List Byte) : Opcode.Statement (.bufWrite q h o v) := ⟨_, rfl⟩
theorem Opcode.bufRead (q h o n : Nat) : Opcode.Statement (.bufRead q h o n) := ⟨_, rfl⟩
theorem Opcode.seqRun (q : Nat) : Opcode.Statement (.seqRun q) := ⟨_, rfl⟩
theorem Opcode.detectTaps : Opcode.Statement .detectTaps := ⟨_, rfl⟩
theorem Opcode.identify (v : Nat) : Opcode.Statement (.identify v) := ⟨_, rfl⟩
theorem Opcode.setPads (a b c d : Nat) : Opcode.Statement (.setPads a b c d) := ⟨_, rfl⟩
theorem Opcode.selectTarget (t : Nat) : Opcode.Statement (.selectTarget t) := ⟨_, rfl⟩
theorem Opcode.jprogram : Opcode.Statement .jprogram := ⟨_, rfl⟩
theorem Opcode.efuseProgramRow (r b p : Nat) (d : Bool) : Opcode.Statement (.efuseProgramRow r b p d) := ⟨_, rfl⟩
theorem Opcode.efuseReadRow (r p : Nat) (d : Bool) : Opcode.Statement (.efuseReadRow r p d) := ⟨_, rfl⟩
theorem Opcode.keyLoad (k : List Byte) (v : Bool) (c : Nat) : Opcode.Statement (.keyLoad k v c) := ⟨_, rfl⟩
theorem Opcode.bbramProgram : Opcode.Statement .bbramProgram := ⟨_, rfl⟩
theorem Opcode.bbramVerify : Opcode.Statement .bbramVerify := ⟨_, rfl⟩
theorem Opcode.keyReadback : Opcode.Statement .keyReadback := ⟨_, rfl⟩

end Sys2Proof.Laws
end

