-- ==== Sys2Proof/Laws/Wait.lean ====
section
/-! SUPPORT. What waiting can do (60_exceptions.md R187 to R190): a delay and a poll drive no pin, and time passes. -/

namespace Sys2Proof.Machine

open Sys2Proof

/-- `t` is `s` after some readings of the timer and of handshake pins: no pin is driven, TDO is not sampled, time does not go
back. -/
structure Waited (s t : State) : Prop where
  drives : Drives s t
  pins : t.pins = s.pins
  cur : t.port.cur = s.port.cur
  count : pulsed s t 0
  writes : ∀ p, drove p s t []
  tdo : sampledBits .tdo s t []
  now : s.env.now ≤ t.env.now

theorem Waited.refl (s : State) : Waited s s := ⟨Drives.refl s, rfl, rfl, rfl, fun _ => rfl, rfl, Nat.le_refl _⟩

theorem Waited.trans {s t u : State} (a : Waited s t) (b : Waited t u) : Waited s u where
  drives := a.drives.trans b.drives
  pins := b.pins.trans a.pins
  cur := b.cur.trans a.cur
  count := by
    have h1 := a.count
    have h2 := b.count
    unfold pulsed at *
    omega
  writes := fun p => drove_trans (a.writes p) (b.writes p)
  tdo := sampledBits_trans a.tdo b.tdo
  now := Nat.le_trans a.now b.now

theorem timerAt_waited {now : Nat} {s : State} (h : s.env.now ≤ now) : Waited s (timerAt now s).2 :=
  ⟨timerAt_drives now s, rfl, rfl, rfl, fun _ => rfl, rfl, h⟩

theorem timerRead_waited (s : State) : Waited s (timerRead s).2 := timerAt_waited (Nat.le_add_right _ _)

theorem timerReadPast_waited (t0 : BitVec 64) (us : Nat) (s : State) : Waited s (timerReadPast t0 us s).2 :=
  timerAt_waited (by omega)

theorem handshakeRead_waited {p : InPin} (hp : p ≠ .tdo) (s : State) : Waited s (pinRead p s).2 := by
  refine ⟨pinRead_drives p s, rfl, rfl, rfl, fun _ => rfl, ?_, ?_⟩
  · cases p with
    | tdo => exact absurd rfl hp
    | hwmReady => rfl
    | hwmEnd => rfl
  · rw [pinRead_now]

theorem delayLoop_waited (t0 : BitVec 64) (us k : Nat) (s : State) : Waited s (delayLoop t0 us k s) := by
  induction k generalizing s with
  | zero => exact timerReadPast_waited _ _ _
  | succ k ih =>
    simp only [delayLoop]
    split
    · exact timerRead_waited s
    · exact (timerRead_waited s).trans (ih _)

theorem pollLoop_waited {p : InPin} (hp : p ≠ .tdo) (t0 : BitVec 64) (us k : Nat) (s : State) :
    Waited s (pollLoop p t0 us k s).2 := by
  induction k generalizing s with
  | zero =>
    simp only [pollLoop]
    split
    · exact handshakeRead_waited hp s
    · exact (handshakeRead_waited hp s).trans (timerReadPast_waited _ _ _)
  | succ k ih =>
    simp only [pollLoop]
    split
    · exact handshakeRead_waited hp s
    · split
      · exact (handshakeRead_waited hp s).trans (timerRead_waited _)
      · exact ((handshakeRead_waited hp s).trans (timerRead_waited _)).trans (ih _)

/-- The frame of a delay. -/
theorem delay_waited (us : Nat) (s : State) : Waited s (delay us s) := (timerRead_waited s).trans (delayLoop_waited _ _ _ _)

/-- The frame of a poll of a handshake pin. -/
theorem poll_waited {p : InPin} (hp : p ≠ .tdo) (us : Nat) (s : State) : Waited s (poll p us s).2 :=
  (timerRead_waited s).trans (pollLoop_waited hp _ _ _ _)

end Sys2Proof.Machine
end

