-- ==== Sys2Proof/Tests/Slice0.lean ====
section
/-! SUPPORT. Tests: the checks of WellFormed, words written out from the spec, one-step runs with results taken from
95_test_vectors.md, and a state for the hypotheses of every statement. -/

namespace Sys2Proof.Tests

open Sys2Proof Sys2Proof.Machine

/-! ## WellFormed: an ill-formed term for each check -/

theorem test_wf_idle_on_unstable : (Instr.setState .shiftDR 1).wellFormed = false := by decide
theorem test_wf_idle_too_wide : (Instr.setState .idle (2 ^ 32)).wellFormed = false := by decide
theorem test_wf_zero_length : (Instr.shiftDr 0 (.fill false) none .idle).wellFormed = false := by decide
theorem test_wf_count_too_wide : (Instr.shiftIr (2 ^ 23) (.fill true) none .idle).wellFormed = false := by decide
theorem test_wf_tdi_handle : (Instr.shiftDr 1 (.buf 65536) none .idle).wellFormed = false := by decide
theorem test_wf_tdo_handle : (Instr.shiftDr 1 (.fill false) (some 65536) .idle).wellFormed = false := by decide
theorem test_wf_host_operand : (Instr.pulse (2 ^ 64)).wellFormed = false := by decide
theorem test_wf_pin_map : (Instr.portInit ⟨0, 1, 2, 3, 4, 5, 2 ^ 64⟩).wellFormed = false := by decide
theorem test_wf_accepts : (Instr.setState .reset 4294967295).wellFormed = true ∧ (Instr.shiftDr 8388607 (.buf 65535) (some 0)
    .shiftIR).wellFormed = true := by decide

/-! ## Decoding: words from 95_test_vectors.md section 4.3 and the opcodes of 30_encoding.md R77 -/

theorem test_decode_setstate : decodeCommand 0x0000000000000000#64 = .ok (.setState .reset 0) ∧
    decodeCommand 0x0000000000000502#64 = .ok (.setState .idle 5) ∧
    decodeCommand 0x0000000000000902#64 = .ok (.setState .idle 9) ∧
    decodeCommand 0x0000000000000108#64 = .ok (.setState .shiftDR 1) := by decide
theorem test_decode_shift_ir : decodeCommand 0x0000000000000C27#64 = .ok (.shiftIr 6 (.buf 0) none .idle) ∧
    decodeCommand 0x0000000000000C23#64 = .ok (.shiftIr 6 (.fill false) none .idle) ∧
    decodeCommand 0x0000000200000C27#64 = .ok (.shiftIr 6 (.buf 2) none .idle) := by decide
theorem test_decode_shift_dr : decodeCommand 0x0000000000004029#64 = .ok (.shiftDr 32 (.fill false) (some 0) .idle) ∧
    decodeCommand 0x0000000000004031#64 = .ok (.shiftDr 32 (.fill true) none .idle) ∧
    decodeCommand 0x000300020000802D#64 = .ok (.shiftDr 64 (.buf 2) (some 3) .idle) := by decide
theorem test_decode_illegal : decodeCommand 0x0000000000000020#64 = .error .reservedBits ∧
    decodeCommand 0x0000010000000000#64 = .error .reservedBits ∧
    decodeCommand 0x0000000100000C23#64 = .error .strayField ∧ decodeCommand 0x0001000000000C23#64 = .error .strayField ∧
    decodeCommand 0x0000000000000C37#64 = .error .strayField := by decide
theorem test_encode_words : encode (.setState .idle 12) = .command 0x0000000000000C02#64 ∧
    encode (.shiftDr 64 (.buf 0) (some 1) .idle) = .command 0x000100000000802D#64 ∧
    encode (.shiftIr 10 (.buf 0) none .idle) = .command 0x0000000000001427#64 ∧
    encode (.shiftDr 37 (.fill false) (some 3) .idle) = .command 0x0003000000004A29#64 := by decide
theorem test_decode_pin_ops : decodeTableWord 8 0x01 = some (.portInit ⟨0, 0, 0, 0, 0, 0, 0⟩) ∧
    decodeTableWord 8 0x02 = some (.navigate .reset) ∧ decodeTableWord 8 0x03 = some (.pulse 0) ∧
    decodeTableWord 8 0x04 = some (.shift .dr 0 (.buf []) false .reset) := by decide
theorem test_decode_seq_ops : decodeTableWord 8 0x10 = some (.seqCreate 0) ∧
    decodeTableWord 8 0x11 = some (.seqAddState 0 .reset 0) ∧
    decodeTableWord 8 0x12 = some (.seqAddShift 0 0 0 false false .reset) ∧ decodeTableWord 8 0x13 = some (.seqClear 0) ∧
    decodeTableWord 8 0x14 = some (.seqDelete 0) ∧ decodeTableWord 8 0x15 = some (.bufWrite 0 0 0 []) ∧
    decodeTableWord 8 0x16 = some (.bufRead 0 0 0 0) ∧ decodeTableWord 8 0x17 = some (.seqRun 0) := by decide
theorem test_decode_protocol_ops : decodeTableWord 8 0x20 = some .detectTaps ∧ decodeTableWord 8 0x21 = some (.identify 0) ∧
    decodeTableWord 8 0x22 = some (.setPads 0 0 0 0) ∧ decodeTableWord 8 0x23 = some (.selectTarget 0) ∧
    decodeTableWord 8 0x30 = some .jprogram ∧ decodeTableWord 8 0x31 = some (.efuseProgramRow 0 0 0 false) ∧
    decodeTableWord 8 0x32 = some (.efuseReadRow 0 0 false) ∧ decodeTableWord 8 0x40 = some (.keyLoad [] false 0) ∧
    decodeTableWord 8 0x41 = some .bbramProgram ∧ decodeTableWord 8 0x42 = some .bbramVerify ∧
    decodeTableWord 8 0x43 = some .keyReadback ∧ decodeTableWord 8 0x05 = none ∧ decodeTableWord 8 0xFF = none := by decide
/-- A record with every argument different: op 0x11, seq 0x0102, state Idle, idle 5. -/
theorem test_decode_record : decodeHostOp [0x11#8, 2#8, 1#8, 0#8, 0#8, 0#8, 0#8, 0#8, 0#8, 1#8, 5#8, 0#8, 0#8, 0#8, 0#8, 0#8, 0#8,
    0#8, 0xEE#8] = .ok (.seqAddState 0x0102 .idle 5, [0xEE#8]) := by decide
theorem test_decode_record_errors : decodeHostOp [0x02#8] = .error (.truncated 0x02#8) ∧
    decodeHostOp [0x02#8, 16#8] = .error (.operandTooWide 0x02#8) ∧ decodeHostOp [] = .error (.unknownOp none) := by decide

/-! ## The navigation table: 95_test_vectors.md section 2 -/

def allStates : List TapState := (List.range 16).map fun k => tapStateOf (BitVec.ofNat 4 k)

theorem test_nav_counts : ((allStates.flatMap fun a => allStates.map fun b => (navEntry a b).count).sum) = 929 := by decide +kernel
theorem test_nav_walks : (navEntry .idle .shiftIR).walk = [true, true, false, false] ∧
    (navEntry .reset .exit2IR).walk = [false, true, true, false, true, false, true] ∧
    (navEntry .selectIR .exit2DR).walk = [false, true, true, true, false, true, false, true] ∧
    (navEntry .pauseIR .pauseDR).walk = [true, true, true, false, true, false] := by decide

/-! ## Small states -/

/-- The state after an instruction. -/
def after (i : Instr) (s : State) : State :=
  match exec i s with
  | .next t => t
  | _ => s

/-- Reset with another modelled TAP state. -/
def atState (c : TapState) : State := State.reset.setCur c

/-- A fuse-blow module that answers `ready` microseconds after it is asked and `ended` after its release. -/
def blower (ready ended : Option Nat) : Hwm :=
  { tReady := ready, tEnd := ended, startedAt := none, readySeen := false, releasedAt := none }

/-- The loopback driver of 60_exceptions.md R193, with a module that answers at once. -/
def loopBench : Bench := { chain := none, tdo := true, hwm := blower (some 0) (some 0), usPerRead := 1 }

/-- Reset with the loopback driver. -/
def looped (c : TapState) : State := (atState c).withEnv { now := 0, bench := some loopBench }

/-- A reference TAP with nothing shifted yet. -/
def someTap (id : Option (BitVec 32)) : Tap :=
  { ts := .pauseIR, irLen := 6, ir := .bypass, irs := [], dr := [], id := id, idInstr := none, irCaptureHigh := 0, regs := [], programmed := [],
    readIndex := 0, readMask := none, readStatus := 0#5, latched := 0#64, fuses := [] }

/-- A bench with a chain of TAPs. -/
def chained (taps : List Tap) : Bench :=
  { chain := some taps, tdo := true, hwm := blower none none, usPerRead := 1 }

/-- A record with commands and buffers. -/
def record (cmds : List Word64) (pool : List Memory) (consumed : Bool) : Seq :=
  { node := 0#8, cmds := cmds, pool := pool, consumed := consumed }

/-- Reset with one sequence, handle 0. -/
def holding (v : Seq) : State := State.reset.withSeqs [(0, v)]

/-- A run of handle 0 at `pc`. -/
def running (v : Seq) (pc : Nat) : State := (holding v).withExec { seq := some 0, pc := pc, needNav := false }

/-- Reset with an identified one-segment target of IR length 6. -/
def aimed : State := State.reset.withPort { Port.reset with family := some 0, irLen := 6#8, segments := 1#8 }

/-- The same with a key loaded. -/
def keyed : State := aimed.withKey { State.reset.key with loaded := true }

/-- Not initialised. -/
def unpowered : State := State.reset.withPort { Port.reset with init := false }

theorem ready_reset : State.reset.ready := ⟨rfl, rfl⟩
theorem ready_atState (c : TapState) : (atState c).ready := ⟨rfl, rfl⟩
theorem ready_looped (c : TapState) : (looped c).ready := ⟨rfl, rfl⟩
theorem ready_holding (v : Seq) : (holding v).ready := ⟨rfl, rfl⟩
theorem targeted_aimed : aimed.targeted 0 := ⟨⟨rfl, rfl⟩, rfl, by decide, rfl⟩
theorem targeted_keyed : keyed.targeted 0 := ⟨⟨rfl, rfl⟩, rfl, by decide, rfl⟩

/-! ## One step of each instruction -/

/-- 40_navigator.md R91: from `Idle`, `NAVIGATE ShiftDR` clocks TMS 1, 0, 0. -/
theorem test_navigate : (after (.navigate .shiftDR) (atState .idle)).port.cur = .shiftDR ∧
    writesOf .tms (after (.navigate .shiftDR) (atState .idle)).trace = [false, false, true] := by decide +kernel
/-- 95_test_vectors.md 2.3: `PULSE 3` in `Reset` clocks TMS 111. -/
theorem test_pulse : writesOf .tms (after (.pulse 3) State.reset).trace = [true, true, true] ∧
    (after (.pulse 1) (atState .shiftDR)).fault = some .notStable := by decide +kernel
/-- 41_shift_engine.md R106: `SHIFT DR, 8, BUF, [0xA5], 1, Exit1DR` looped back. -/
theorem test_shift : (after (.shift .dr 8 (.buf [0xA5#8]) true .exit1DR) (looped .shiftDR)).returned =
      .shiftOut (some [0xA5#8]) false ∧
    writesOf .tdi (after (.shift .dr 8 (.buf [0xA5#8]) true .exit1DR) (looped .shiftDR)).trace =
      [true, false, true, false, false, true, false, true] := by decide +kernel
/-- 43_executor.md R121: `SETSTATE Idle, 12` from `UpdateDR` is 13 pulses. -/
theorem test_setstate : pulses (after (.setState .idle 12) (atState .updateDR)).trace = 13 := by decide +kernel
/-- 43_executor.md R122: `SHIFT.IR 6, tdi=h0, exit=Idle` from `Idle` is 12 pulses. -/
theorem test_shift_ir : pulses (after (.shiftIr 6 (.buf 0) none .idle)
      ((atState .idle).withPseq (record [] [newBuffer 1] false))).trace = 12 := by decide +kernel
/-- 95_test_vectors.md 4.2: a 4-bit `SHIFT.DR` to `ShiftIR` clocks TMS 0001 11100. -/
theorem test_shift_dr : writesOf .tms (after (.shiftDr 4 (.fill false) none .shiftIR) (looped .shiftDR)).trace =
      [false, false, true, true, true, true, false, false, false] := by decide +kernel
/-- 42_sequence_builder.md R110, R115: the lowest handle. -/
theorem test_seq_create : (after (.seqCreate 7) (holding Seq.empty)).returned = .handle 1 ∧
    (after (.seqCreate 0) State.reset).returned = .handle 0 := by decide +kernel
/-- 42_sequence_builder.md R111: the example's word, and its error. -/
theorem test_seq_add_state : (after (.seqAddState 0 .idle 5) (holding Seq.empty)).seqs =
      [(0, record [0x0000000000000502#64] [] false)] ∧
    (after (.seqAddState 0 .shiftDR 1) (holding Seq.empty)).result = 0x00000202#32 := by decide +kernel
/-- 42_sequence_builder.md R112: the example's word and handles. -/
theorem test_seq_add_shift : (after (.seqAddShift 0 0 64 true true .idle) (holding Seq.empty)).seqs =
      [(0, record [0x000100000000802D#64] [newBuffer 8, newBuffer 8] false)] ∧
    (after (.seqAddShift 0 4 8 false false .idle) (holding Seq.empty)).fault = some .badFlags := by decide +kernel
theorem test_seq_clear : (after (.seqClear 0) (holding (record [0x502#64] [newBuffer 1] true))).seqs =
      [(0, Seq.empty)] := by decide +kernel
theorem test_seq_delete : (after (.seqDelete 0) (holding Seq.empty)).seqs = [] ∧
    (after (.seqDelete 1) (holding Seq.empty)).fault = some .badHandle := by decide +kernel
/-- 42_sequence_builder.md R116, R117: bytes written are bytes read; one past the end faults. -/
theorem test_buf_write : (after (.bufRead 0 0 0 3) (after (.bufWrite 0 0 1 [0x09#8, 0#8]) (holding
      (record [] [newBuffer 3] false)))).returned = .bytes [0#8, 0x09#8, 0#8] := by decide +kernel
theorem test_buf_read : (after (.bufRead 0 0 4 8) (holding (record [] [newBuffer 8] false))).fault = some .badBufferAccess := by
  decide +kernel
/-- 43_executor.md R118, R119: the run of `[SETSTATE Idle, 5]` from `Reset`, and a second run. -/
theorem test_seq_run : pulses (after (.seqRun 0) (holding (record [0x502#64] [] false))).trace = 6 ∧
    (after (.seqRun 0) (holding (record [0x502#64] [] true))).fault = some .sequenceConsumed := by decide +kernel
/-- 44_discovery.md R133 on the vectors of 95_test_vectors.md section 3, with their `DUMMY_ID` and 4 TAPs at most. -/
theorem test_decode_chain : decodeChain 0x0BADF00D#32 4 (natBits 32 0x13456789 ++ [false] ++ natBits 32 0x0BADF00D) =
      some [.idCode 0x13456789#32, .bypass] ∧
    decodeChain 0x0BADF00D#32 4 (List.replicate 5 false ++ natBits 32 0x0BADF00D) = none := by decide +kernel
/-- 45_identity.md R140: the top nibble is ignored, and the first match wins. -/
theorem test_lookup : lookupDevice [⟨0x2345678#28, 0, 6#8, 1#8, 0#8⟩, ⟨0x2345678#28, 1, 4#8, 1#8, 0#8⟩] 0x12345678#32 =
      some ⟨0x2345678#28, 0, 6#8, 1#8, 0#8⟩ ∧
    lookupDevice [⟨0x2345678#28, 0, 6#8, 1#8, 0#8⟩] 0x02345679#32 = none := by decide +kernel
theorem test_set_pads : (after (.setPads 3 5 0xFFFF 7) State.reset).port.drPre = 0xFFFF#16 ∧
    (after (.setPads 0x10000 0 0 0) State.reset).fault = some .valueTooWide := by decide +kernel
/-- 45_identity.md R143: the example, IR lengths 6, 10 and 4, target 1. -/
theorem test_select_pads : (selectEffect 1 ⟨0x1111111#28, 1, 10#8, 1#8, 0#8⟩ [⟨0x3456789#28, 0, 6#8, 1#8, 0#8⟩,
      ⟨0x1111111#28, 1, 10#8, 1#8, 0#8⟩, ⟨0x2222223#28, 2, 4#8, 1#8, 0#8⟩] State.reset).port =
      ((Port.reset.setPads 6 4 1 1).identify ⟨0x1111111#28, 1, 10#8, 1#8, 0#8⟩ |> fun p => { p with target := 1#8 }) := by
  decide +kernel
theorem test_select_none : (after (.selectTarget 0) State.reset).result = 0x00000401#32 := by decide +kernel
/-- 46_efuse.md R146. -/
theorem test_no_target : (after .jprogram State.reset).result = 0x00000301#32 ∧
    (after .bbramProgram aimed).fault = some .keyNotLoaded := by decide +kernel
theorem test_efuse_bit : (after (.efuseProgramRow 5 32 0 false) aimed).fault = some .badArgument := by decide +kernel
/-- 47_bbram.md R162 on the key of 95_test_vectors.md. -/
theorem test_key_words : keyWord (loadedKey ([0x00#8, 0x11#8, 0x22#8, 0x33#8, 0x44#8, 0x55#8, 0x66#8, 0x77#8] ++
      List.replicate 24 0xFF#8) false 0).bytes 0 = 0x00112233#32 ∧
    keyWord (loadedKey ([0x00#8, 0x11#8, 0x22#8, 0x33#8, 0x44#8, 0x55#8, 0x66#8, 0x77#8] ++
      List.replicate 24 0xFF#8) false 0).bytes 1 = 0x44556677#32 := by decide +kernel
theorem test_key_load : (after (.keyLoad (List.replicate 31 0#8) false 0) State.reset).fault = some .badArgument ∧
    (after (.keyLoad (List.replicate 32 9#8) false 7) State.reset).key.crc = 0#32 := by decide +kernel
theorem test_key_readback : (after .keyReadback State.reset).returned =
    .readback (Vector.replicate 8 0#32) (Vector.replicate 8 0#5) := by decide +kernel
/-- 95_test_vectors.md section 7.1: the first words of the fixed sequences, IR length 6. -/
theorem test_fixed_words : ((bbramVerifySeq 0 6).cmds.take 6) = [0x0000000000000C27#64, 0x0000000100000A25#64,
      0x0000000000000C02#64, 0x0000000200000C27#64, 0x0003000000004A29#64, 0x0000000000000102#64] ∧
    (bbramVerifySeq 0 6).cmds.length = 27 ∧ (jprogramSeq 0 6).cmds = [0#64, 0x0000000000000C27#64] := by decide +kernel
/-- 60_exceptions.md R172: the words of 95_test_vectors.md section 8.1. -/
theorem test_result_words : ErrorCode.badPinAssignment.word = 0x00000101#32 ∧ ErrorCode.tooManyTaps.word = 0x00000601#32 ∧
    ErrorCode.badFuseAddress.word = 0x00000801#32 ∧ ErrorCode.timeoutEnd.word = 0x01000203#32 ∧
    (ErrorCode.notReady 7).word = 0x00070104#32 ∧ (ErrorCode.dataMismatch 3).word = 0x00030204#32 ∧
    ErrorCode.crcMismatch.word = 0x00000304#32 := by decide
/-- 60_exceptions.md R178: an unknown opcode before `NotInitialised`; a truncated record after it. -/
theorem test_check_order : (refuseRecord [5#8] (.unknownOp (some 5#8)) unpowered).fault = some .unknownOp ∧
    (refuseRecord [2#8] (.truncated 0x02#8) unpowered).fault = some .notInitialised ∧
    (refuseRecord [2#8] (.truncated 0x02#8) State.reset).fault = some .badArgument := by decide

/-- SEQ_ADD_STATE of handle 0 to a state 16: BadHandle and SequenceConsumed come first (42_sequence_builder.md R109). -/
def wideState : List Byte := 0x11#8 :: (List.replicate 8 0#8 ++ [16#8])

theorem test_refused_handle :
    step (State.reset.withHostQueue [wideState]) = .next (takeFault .badHandle State.reset) ∧
      step ((holding (record [] [] true)).withHostQueue [wideState]) =
        .next (takeFault .sequenceConsumed (holding (record [] [] true))) ∧
      step ((holding Seq.empty).withHostQueue [wideState]) = .next (takeFault .valueTooWide (holding Seq.empty)) := ⟨rfl, rfl, rfl⟩

/-- EFUSE_READ_ROW with `redundant` 2: NoTarget comes first (46_efuse.md R146). -/
theorem test_refused_target : step (State.reset.withHostQueue [0x32#8 :: (List.replicate 16 0#8 ++ [2#8])]) =
      .next (raiseError .noTarget State.reset) ∧
    step (aimed.withHostQueue [0x32#8 :: (List.replicate 16 0#8 ++ [2#8])]) = .next (takeFault .valueTooWide aimed) := ⟨rfl, rfl⟩

/-- A refused protocol operation has emptied PSEQ (43_executor.md R127). -/
theorem test_pseq_emptied : (after .jprogram (State.reset.withPseq (record [0x502#64] [] false))).pseq = Seq.empty := rfl

/-- IR_CAPTURE has bits 1:0 at 0b01 (60_exceptions.md R191). -/
theorem test_ir_capture : (tapClock { someTap none with ts := .captureIR, irCaptureHigh := 5 } false true).2.irs =
    [true, false, true, false, true, false] := rfl

/-! ## A state and operands for the hypotheses of every statement, one theorem a clause -/

theorem witness_DecodeEncode : (Instr.setState .idle 4294967295).wellFormed = true ∧
    (Instr.bufWrite 0 1 2 [3#8]).wellFormed = true := by decide
theorem witness_CommandWordsCanonical : decodeCommand 0x0001000200000C2F#64 = .ok (.shiftIr 6 (.buf 2) (some 1) .idle) := by
  decide
theorem witness_IllegalWordsFault_legal : (running (record [0x502#64, 0x20#64] [] true) 0).ready ∧
    (running (record [0x502#64, 0x20#64] [] true) 0).exec.seq = some 0 ∧
    (running (record [0x502#64, 0x20#64] [] true) 0).seqAt 0 = some (record [0x502#64, 0x20#64] [] true) ∧
    (record [0x502#64, 0x20#64] [] true).cmds[0]? = some 0x502#64 ∧ legalBits [] 0x502#64 = true :=
  ⟨⟨rfl, rfl⟩, rfl, rfl, rfl, by decide⟩
theorem witness_IllegalWordsFault_illegal : (running (record [0x502#64, 0x20#64] [] true) 1).ready ∧
    (running (record [0x502#64, 0x20#64] [] true) 1).exec.seq = some 0 ∧
    (running (record [0x502#64, 0x20#64] [] true) 1).seqAt 0 = some (record [0x502#64, 0x20#64] [] true) ∧
    (record [0x502#64, 0x20#64] [] true).cmds[1]? = some 0x20#64 ∧ legalBits [] 0x20#64 = false :=
  ⟨⟨rfl, rfl⟩, rfl, rfl, rfl, by decide⟩
/-- Each condition of 30_encoding.md R75 fails on some word, and each kind of word passes. -/
theorem test_legal_bits : legalBits [newBuffer 2] 0x000000010000102D#64 = false ∧
    legalBits [newBuffer 2] 0x000000000000103D#64 = false ∧ legalBits [] 0x0001000000000C23#64 = false ∧
    legalBits [newBuffer 2] 0x000000000000202D#64 = true ∧ legalBits [newBuffer 2] 0x000000000000222D#64 = false ∧
    legalBits [] 0x108#64 = false ∧ legalBits [] 0x1#64 = false ∧ legalBits [] 0x0000000100000C23#64 = false ∧
    legalBits [] 0xC23#64 = true ∧ legalBits [] 0x0000010000000000#64 = false := by decide
theorem witness_ReservedOpcodesFault : (unpowered.withHostQueue [[0x05#8]]).fault = none ∧
    ((unpowered.withHostQueue [[0x05#8]]).exec.seq = none ∨ (unpowered.withHostQueue [[0x05#8]]).port.init = false) ∧
    (unpowered.withHostQueue [[0x05#8]]).hostQueue = (0x05#8 :: []) :: [] ∧
    (0x05#8).toNat ∉ [0x01, 0x02, 0x03, 0x04, 0x10, 0x11, 0x12, 0x13, 0x14, 0x15, 0x16, 0x17, 0x20, 0x21, 0x22, 0x23, 0x30, 0x31,
      0x32, 0x40, 0x41, 0x42, 0x43] := ⟨rfl, .inr rfl, rfl, by decide⟩
theorem witness_StepRunsDecoded_host : (State.reset.withHostQueue [[0x20#8], [0x30#8]]).fault = none ∧
    ((State.reset.withHostQueue [[0x20#8], [0x30#8]]).exec.seq = none ∨
      (State.reset.withHostQueue [[0x20#8], [0x30#8]]).port.init = false) ∧
    (State.reset.withHostQueue [[0x20#8], [0x30#8]]).hostQueue = [0x20#8] :: [[0x30#8]] ∧
    decodeHostOp [0x20#8] = .ok (.detectTaps, []) := ⟨rfl, .inl rfl, rfl, by decide⟩
/-- A power-on state whose unspecified `EXEC.SEQ` names no live sequence (70_reset_and_hazards.md R197). -/
def stray : State := (unpowered.withExec { seq := some 7, pc := 3, needNav := true }).withHostQueue [[0x20#8]]

theorem test_power_on_runs_host : step stray = .next (takeFault .notInitialised (stray.withHostQueue [])) := rfl
theorem witness_StepRunsDecoded_power_on : stray.fault = none ∧ (stray.exec.seq = none ∨ stray.port.init = false) ∧
    stray.hostQueue = [0x20#8] :: [] ∧ decodeHostOp [0x20#8] = .ok (.detectTaps, []) := ⟨rfl, .inr rfl, rfl, by decide⟩
theorem witness_StepRunsDecoded_command : (running (record [0x502#64] [] true) 0).ready ∧
    (running (record [0x502#64] [] true) 0).exec.seq = some 0 ∧
    (running (record [0x502#64] [] true) 0).seqAt 0 = some (record [0x502#64] [] true) ∧
    (record [0x502#64] [] true).cmds[0]? = some 0x502#64 ∧ decodeCommand 0x502#64 = .ok (.setState .idle 5) :=
  ⟨⟨rfl, rfl⟩, rfl, rfl, rfl, by decide⟩
theorem witness_NavigationTable : TapState.shiftDR ≠ .reset ∧ [true, false, false].foldl TapState.next .idle = .shiftDR ∧
    (∀ k, 0 < k → k < 3 → ([true, false, false].take k).foldl TapState.next .idle ≠ .reset) := by
  refine ⟨by decide, by decide, fun k h1 h2 => ?_⟩
  have : k = 1 ∨ k = 2 := by omega
  rcases this with rfl | rfl <;> decide
theorem witness_Navigate : (atState .captureDR).ready ∧ TapState.idle ≠ .reset := ⟨⟨rfl, rfl⟩, by decide⟩
theorem witness_Pulse_stable : (atState .pauseDR).ready ∧ 4294967295 < 2 ^ 32 ∧ (atState .pauseDR).port.cur.stable = true :=
  ⟨⟨rfl, rfl⟩, by decide, rfl⟩
theorem witness_Pulse_zero : (atState .shiftDR).ready ∧ 0 < 2 ^ 32 ∧ (0 = 0 ∨ (atState .shiftDR).port.cur.stable = true) :=
  ⟨⟨rfl, rfl⟩, by decide, .inl rfl⟩
theorem witness_Pulse_unstable : (atState .shiftDR).ready ∧ 1 < 2 ^ 32 ∧ 0 < 1 ∧ (atState .shiftDR).port.cur.stable = false :=
  ⟨⟨rfl, rfl⟩, by decide, by decide, rfl⟩
theorem witness_Pulse_wide : (atState .idle).ready ∧ 2 ^ 32 ≤ 4294967296 := ⟨⟨rfl, rfl⟩, by decide⟩
theorem witness_HostShift : (atState .shiftIR).ready ∧ (atState .shiftIR).port.cur = Dir.ir.shiftState ∧ 1 ≤ 9 ∧
    9 ≤ Config.maxShiftBits ∧ ∀ bytes, TdiMode.buf [1#8, 1#8] = .buf bytes → (9 + 7) / 8 ≤ bytes.length := by
  refine ⟨⟨rfl, rfl⟩, rfl, by decide, by decide, fun bytes h => ?_⟩
  cases h
  decide
theorem witness_HostShift_longest : (atState .shiftDR).ready ∧ (atState .shiftDR).port.cur = Dir.dr.shiftState ∧ 1 ≤ 8388607 ∧
    8388607 ≤ Config.maxShiftBits ∧ ∀ bytes, TdiMode.ones = .buf bytes → (8388607 + 7) / 8 ≤ bytes.length :=
  ⟨⟨rfl, rfl⟩, rfl, by decide, by decide, fun _ h => by cases h⟩
theorem witness_LoopbackShift : (looped .shiftDR).ready ∧ (looped .shiftDR).env.bench = some loopBench ∧ loopBench.chain = none ∧
    (looped .shiftDR).port.prePad .dr = 0 ∧ (looped .shiftDR).port.postPad .dr = 0 ∧
    (looped .shiftDR).port.cur = Dir.dr.shiftState ∧ 1 ≤ 7 ∧ 7 ≤ Config.maxShiftBits ∧
    ∀ bytes, TdiMode.buf [0x5A#8] = .buf bytes → (7 + 7) / 8 ≤ bytes.length := by
  refine ⟨⟨rfl, rfl⟩, rfl, rfl, rfl, rfl, rfl, by decide, by decide, fun bytes h => ?_⟩
  cases h
  decide
theorem witness_ShiftChecks_state : (atState .idle).ready ∧ (atState .idle).port.cur ≠ Dir.dr.shiftState :=
  ⟨⟨rfl, rfl⟩, by decide⟩
theorem witness_ShiftChecks_others : (atState .shiftDR).ready ∧ (atState .shiftDR).port.cur = Dir.dr.shiftState ∧
    Config.maxShiftBits < 8388608 ∧ 1 ≤ 9 ∧ 9 ≤ Config.maxShiftBits ∧ [0xFF#8].length < (9 + 7) / 8 :=
  ⟨⟨rfl, rfl⟩, rfl, by decide, by decide, by decide, by decide⟩
theorem witness_SetStateCommand_idle : (atState .shiftDR).ready ∧ 4294967295 < 2 ^ 32 ∧ TapState.pauseIR.stable = true :=
  ⟨⟨rfl, rfl⟩, by decide, rfl⟩
theorem witness_SetStateCommand_unstable : (atState .idle).ready ∧ 0 < 2 ^ 32 ∧ (0 = 0 ∨ TapState.shiftDR.stable = true) :=
  ⟨⟨rfl, rfl⟩, by decide, .inl rfl⟩

/-- A run of handle 0 with two buffers of two bytes. -/
def twoBuffers : State := running (record [] [newBuffer 2, newBuffer 2] true) 0

theorem witness_ShiftCommand_buffers : twoBuffers.ready ∧ twoBuffers.memoryWf = true ∧ handlesRise 0 twoBuffers.seqs = true ∧
    1 ≤ 16 ∧ 16 < 2 ^ 23 ∧
    (∀ h, TdiSource.buf 0 = .buf h → h < 2 ^ 16 ∧ ∃ m, twoBuffers.curSeq.pool[h]? = some m ∧ (16 + 7) / 8 ≤ m.size) ∧
    (∀ h, some 1 = some h → h < 2 ^ 16 ∧ ∃ m, twoBuffers.curSeq.pool[h]? = some m ∧ (16 + 7) / 8 ≤ m.size) := by
  refine ⟨⟨rfl, rfl⟩, by decide, by decide, by decide, by decide, fun h e => ?_, fun h e => ?_⟩
  · cases e
    exact ⟨by decide, newBuffer 2, rfl, by decide⟩
  · cases e
    exact ⟨by decide, newBuffer 2, rfl, by decide⟩
theorem witness_ShiftCommand_longest : State.reset.ready ∧ State.reset.memoryWf = true ∧ handlesRise 0 State.reset.seqs = true ∧
    1 ≤ 8388607 ∧ 8388607 < 2 ^ 23 ∧
    (∀ h, TdiSource.fill true = .buf h → h < 2 ^ 16 ∧ ∃ m, State.reset.curSeq.pool[h]? = some m ∧ (8388607 + 7) / 8 ≤ m.size) ∧
    (∀ h, none = some h → h < 2 ^ 16 ∧ ∃ m, State.reset.curSeq.pool[h]? = some m ∧ (8388607 + 7) / 8 ≤ m.size) :=
  ⟨⟨rfl, rfl⟩, by decide, by decide, by decide, by decide, fun _ e => (nomatch e), fun _ e => (nomatch e)⟩
theorem witness_CommandPulses_shift : (atState .idle).ready ∧
    ∃ t, exec (Instr.shiftCommand .dr 1 (.fill false) none .idle) (atState .idle) = .next t ∧ t.fault = none :=
  ⟨⟨rfl, rfl⟩, _, rfl, rfl⟩
theorem witness_CommandPulses_setState : (atState .idle).ready ∧
    ∃ t, exec (.setState .reset 1) (atState .idle) = .next t ∧ t.fault = none := ⟨⟨rfl, rfl⟩, _, rfl, rfl⟩
theorem witness_CommandPulses_run : (holding (record [0x102#64] [] false)).ready ∧
    handlesRise 0 (holding (record [0x102#64] [] false)).seqs = true ∧
    (holding (record [0x102#64] [] false)).seqAt 0 = some (record [0x102#64] [] false) ∧
    ∃ t, exec (.seqRun 0) (holding (record [0x102#64] [] false)) = .next t ∧ t.fault = none :=
  ⟨⟨rfl, rfl⟩, by decide, rfl, _, rfl, by decide +kernel⟩
theorem witness_SeqRun : (holding (record [0x502#64, 0xC23#64] [] false)).ready ∧
    handlesRise 0 (holding (record [0x502#64, 0xC23#64] [] false)).seqs = true ∧
    (holding (record [0x502#64, 0xC23#64] [] false)).seqAt 0 = some (record [0x502#64, 0xC23#64] [] false) ∧
    (record [0x502#64, 0xC23#64] [] false).consumed = false ∧ (record [0x502#64, 0xC23#64] [] false).legal = true :=
  ⟨⟨rfl, rfl⟩, by decide, rfl, rfl, by decide⟩
theorem witness_RunStopsAtIllegalWord : (holding (record [0x502#64, 0x20#64, 0x102#64] [] false)).ready ∧
    handlesRise 0 (holding (record [0x502#64, 0x20#64, 0x102#64] [] false)).seqs = true ∧
    (holding (record [0x502#64, 0x20#64, 0x102#64] [] false)).seqAt 0 = some (record [0x502#64, 0x20#64, 0x102#64] [] false) ∧
    (record [0x502#64, 0x20#64, 0x102#64] [] false).cmds = [0x502#64] ++ 0x20#64 :: [0x102#64] ∧
    [0x502#64].all (legalBits []) = true ∧ legalBits [] 0x20#64 = false := ⟨⟨rfl, rfl⟩, by decide, rfl, rfl, by decide, by decide⟩
theorem witness_RunIsItsSteps : (holding (record [0x502#64, 0x20#64] [] false)).ready ∧
    handlesRise 0 (holding (record [0x502#64, 0x20#64] [] false)).seqs = true ∧
    (holding (record [0x502#64, 0x20#64] [] false)).seqAt 0 = some (record [0x502#64, 0x20#64] [] false) ∧
    (record [0x502#64, 0x20#64] [] false).consumed = false := ⟨⟨rfl, rfl⟩, by decide, rfl, rfl⟩
/-- Both clauses of `RunIsItsSteps` are reached: a run that ends without a fault, and one that faults. -/
theorem witness_RunIsItsSteps_clauses : (after (.seqRun 0) (holding (record [0x102#64] [] false))).fault = none ∧
    (after (.seqRun 0) (holding (record [0x20#64] [] false))).fault ≠ none := by decide +kernel
theorem witness_BuilderIsQuiet : ∃ t, exec (.seqCreate 0) State.reset = .next t := ⟨_, rfl⟩
theorem witness_HandleChecks_init : unpowered.fault = none ∧ Instr.seqRun 65535 = .seqRun 65535 ∧
    unpowered.port.init = false := ⟨rfl, rfl, rfl⟩
theorem witness_HandleChecks_handle : State.reset.fault = none ∧ State.reset.port.init = true ∧
    State.reset.seqAt 65535 = none ∧ (∃ h o bytes, Instr.bufWrite 65535 65536 0 [] = .bufWrite 65535 h o bytes) :=
  ⟨rfl, rfl, rfl, 65536, 0, [], rfl⟩
theorem witness_HandleChecks_wide : (holding Seq.empty).fault = none ∧ (holding Seq.empty).port.init = true ∧
    handlesRise 0 (holding Seq.empty).seqs = true ∧ 2 ^ 16 ≤ 65536 ∧ Instr.seqClear 65536 = .seqClear 65536 :=
  ⟨rfl, rfl, by decide, by decide, rfl⟩
theorem witness_HandleChecks_consumed : (holding (record [] [] true)).fault = none ∧
    (holding (record [] [] true)).port.init = true ∧ (holding (record [] [] true)).seqAt 0 = some (record [] [] true) ∧
    (record [] [] true).consumed = true ∧
    (∃ st idle, Instr.seqAddState 0 .idle 4294967296 = .seqAddState 0 st idle) :=
  ⟨rfl, rfl, rfl, rfl, .idle, 4294967296, rfl⟩

theorem full_rises (low n : Nat) (h : low + n ≤ 65536) :
    handlesRise low ((List.range' low n).map fun k => (k, Seq.empty)) = true := by
  induction n generalizing low with
  | zero => rfl
  | succ n ih =>
    simp only [List.range'_succ, List.map_cons, handlesRise, Bool.and_eq_true, decide_eq_true_eq]
    exact ⟨⟨Nat.le_refl _, by unfold Config.handleCount; omega⟩, ih (low + 1) (by omega)⟩
theorem full_lookup (low n k : Nat) (h1 : low ≤ k) (h2 : k < low + n) :
    seqLookup ((List.range' low n).map fun k => (k, Seq.empty)) k = some Seq.empty := by
  induction n generalizing low with
  | zero => omega
  | succ n ih =>
    rw [List.range'_succ, List.map_cons, seqLookup_cons]
    split
    · rfl
    · exact ih (low + 1) (by omega) (by omega)

/-- Every handle in use. -/
def crowded : State := State.reset.withSeqs ((List.range' 0 65536).map fun k => (k, Seq.empty))

theorem witness_SeqCreate_free : (holding Seq.empty).ready ∧ handlesRise 0 (holding Seq.empty).seqs = true ∧ 255 < 2 ^ 8 ∧
    (∃ k, k < 65536 ∧ (holding Seq.empty).seqAt k = none) := ⟨⟨rfl, rfl⟩, by decide, by decide, 65535, by decide, rfl⟩
theorem witness_SeqCreate_full : crowded.ready ∧ handlesRise 0 crowded.seqs = true ∧ 0 < 2 ^ 8 ∧
    (∀ k, k < 65536 → crowded.seqAt k ≠ none) := by
  refine ⟨⟨rfl, rfl⟩, full_rises 0 65536 (by omega), by decide, fun k hk => ?_⟩
  show seqLookup _ k ≠ none
  rw [show crowded.seqs = (List.range' 0 65536).map fun k => (k, Seq.empty) from rfl, full_lookup 0 65536 k (by omega) (by omega)]
  simp
theorem witness_SeqAddState_ok : (holding Seq.empty).ready ∧ handlesRise 0 (holding Seq.empty).seqs = true ∧
    (holding Seq.empty).seqAt 0 = some Seq.empty ∧ Seq.empty.consumed = false ∧ 4294967295 < 2 ^ 32 ∧
    (4294967295 = 0 ∨ TapState.pauseIR.stable = true) ∧ 2 ^ 32 ≤ 4294967296 :=
  ⟨⟨rfl, rfl⟩, by decide, rfl, rfl, by decide, .inr rfl, by decide⟩
theorem witness_SeqAddState_error : (holding Seq.empty).ready ∧ (holding Seq.empty).seqAt 0 = some Seq.empty ∧ 0 < 1 ∧
    TapState.shiftDR.stable = false := ⟨⟨rfl, rfl⟩, rfl, by decide, rfl⟩

/-- Buffers of one byte. -/
def buffers (n : Nat) : List Memory := List.replicate n (newBuffer 1)

theorem buffers_length (n : Nat) : (buffers n).length = n := List.length_replicate

/-- A record with room for two more buffers. -/
def nearlyFull : Seq := record [] (buffers 65534) false

/-- A record with no room for a buffer. -/
def poolFull : Seq := record [] (buffers 65536) false

theorem witness_SeqAddShift : (holding nearlyFull).ready ∧ handlesRise 0 (holding nearlyFull).seqs = true ∧
    (holding nearlyFull).seqAt 0 = some nearlyFull ∧ nearlyFull.consumed = false ∧ 3 < 4 ∧ 1 ≤ 8388607 ∧ 8388607 < 2 ^ 23 ∧
    nearlyFull.pool.length + true.toNat + true.toNat ≤ 65536 := by
  exact ⟨⟨rfl, rfl⟩, rfl, rfl, rfl, by decide, by decide, by decide, by
    rw [show nearlyFull.pool = buffers 65534 from rfl, buffers_length]
    decide⟩
theorem witness_SeqAddShiftChecks : (holding Seq.empty).ready ∧ (holding Seq.empty).seqAt 0 = some Seq.empty ∧
    Seq.empty.consumed = false ∧ 2 ^ 8 ≤ 256 ∧ 4 ≤ 255 ∧ 255 < 2 ^ 8 ∧ 3 < 4 ∧ 2 ^ 23 ≤ 8388608 :=
  ⟨⟨rfl, rfl⟩, rfl, rfl, by decide, by decide, by decide, by decide⟩
theorem witness_SeqAddShiftChecks_pool : (holding poolFull).ready ∧ (holding poolFull).seqAt 0 = some poolFull ∧
    poolFull.consumed = false ∧ 0 < 4 ∧ 1 ≤ 1 ∧ 1 < 2 ^ 23 ∧ 65536 < poolFull.pool.length + true.toNat + false.toNat := by
  exact ⟨⟨rfl, rfl⟩, rfl, rfl, by decide, by decide, by decide, by
    rw [show poolFull.pool = buffers 65536 from rfl, buffers_length]
    decide⟩
theorem witness_SeqClearDelete : (holding (record [0x502#64] [newBuffer 1] true)).ready ∧
    handlesRise 0 (holding (record [0x502#64] [newBuffer 1] true)).seqs = true ∧
    (holding (record [0x502#64] [newBuffer 1] true)).seqAt 0 = some (record [0x502#64] [newBuffer 1] true) :=
  ⟨⟨rfl, rfl⟩, by decide, rfl⟩
theorem witness_BufWrite_inside : twoBuffers.ready ∧ handlesRise 0 twoBuffers.seqs = true ∧ twoBuffers.memoryWf = true ∧
    twoBuffers.seqAt 0 = some (record [] [newBuffer 2, newBuffer 2] true) ∧ 1 < 2 ^ 16 ∧
    (record [] [newBuffer 2, newBuffer 2] true).pool[1]? = some (newBuffer 2) ∧ 1 + [7#8].length ≤ (newBuffer 2).size :=
  ⟨⟨rfl, rfl⟩, by decide, by decide, rfl, by decide, rfl, by decide⟩
theorem witness_BufWrite_outside : twoBuffers.ready ∧ twoBuffers.seqAt 0 = some (record [] [newBuffer 2, newBuffer 2] true) ∧
    1 < 2 ^ 16 ∧ (∀ m, (record [] [newBuffer 2, newBuffer 2] true).pool[1]? = some m → m.size < 2 + [7#8].length) := by
  refine ⟨⟨rfl, rfl⟩, rfl, by decide, fun m h => ?_⟩
  cases h
  decide
theorem witness_BufWrite_dead : ∀ m, (record [] [newBuffer 2] true).pool[65535]? = some m → m.size < 0 + [7#8].length := by
  intro m h
  cases h
theorem witness_BufRead_inside : twoBuffers.ready ∧ handlesRise 0 twoBuffers.seqs = true ∧
    twoBuffers.seqAt 0 = some (record [] [newBuffer 2, newBuffer 2] true) ∧ 0 < 2 ^ 16 ∧
    (record [] [newBuffer 2, newBuffer 2] true).pool[0]? = some (newBuffer 2) ∧ 2 + 0 ≤ (newBuffer 2).size :=
  ⟨⟨rfl, rfl⟩, by decide, rfl, by decide, rfl, by decide⟩
theorem witness_BufRead_outside : twoBuffers.ready ∧ twoBuffers.seqAt 0 = some (record [] [newBuffer 2, newBuffer 2] true) ∧
    0 < 2 ^ 16 ∧ (∀ m, (record [] [newBuffer 2, newBuffer 2] true).pool[0]? = some m → m.size < 2 + 1) := by
  refine ⟨⟨rfl, rfl⟩, rfl, by decide, fun m h => ?_⟩
  cases h
  decide
theorem witness_DetectTaps : (atState .exit2IR).ready := ⟨rfl, rfl⟩
theorem witness_DetectPulses : (looped .idle).ready := ⟨rfl, rfl⟩
theorem witness_DecodeChainComplete : (0x0BADF00D#32).getLsbD 0 = true ∧
    [IdEntry.idCode 0x13456789#32, .bypass].length ≤ 2 ∧
    (∀ v, IdEntry.idCode v ∈ [IdEntry.idCode 0x13456789#32, .bypass] → v.getLsbD 0 = true ∧ v ≠ 0x0BADF00D#32) := by
  refine ⟨by decide, by decide, fun v h => ?_⟩
  simp only [List.mem_cons, IdEntry.idCode.injEq, List.not_mem_nil, or_false, reduceCtorEq] at h
  subst h
  decide
theorem witness_DecodedIdCodesOdd : decodeChain 0x0BADF00D#32 1 (natBits 32 0x13456789 ++ natBits 32 0x0BADF00D) =
    some [.idCode 0x13456789#32] := by decide +kernel

/-- An ID code that is odd and not the sentinel, whatever the sentinel is. -/
def otherId : BitVec 32 := Config.dummyId ^^^ 2#32

theorem otherId_odd : otherId.getLsbD 0 = true := by
  simp [otherId, Config.dummyId]
theorem otherId_ne : otherId ≠ Config.dummyId := by
  intro h
  have := congrArg (fun v => v.getLsbD 1) h
  simp [otherId] at this
theorem witness_DetectReferenceChain : ∃ s : State, s.ready ∧ s.pins.tck = false ∧
    s.env.bench = some (chained [someTap (some otherId)]) ∧ (chained [someTap (some otherId)]).chain = some [someTap (some otherId)] ∧
    [someTap (some otherId)].length ≤ Config.maxTaps ∧
    (∀ tap ∈ [someTap (some otherId)], ∀ v, tap.id = some v → v.getLsbD 0 = true ∧ v ≠ Config.dummyId) := by
  refine ⟨(atState .idle).withEnv { now := 0, bench := some (chained [someTap (some otherId)]) }, ⟨rfl, rfl⟩, rfl, rfl, rfl, ?_,
    fun tap h v e => ?_⟩
  · show 1 ≤ Config.rawMaxTaps % 255 + 1
    omega
  · rw [List.mem_singleton] at h
    subst h
    cases e
    exact ⟨otherId_odd, otherId_ne⟩

theorem witness_PortInit_legal : unpowered.fault = none ∧ (∀ line ∈ Port.reset.pinmap.lines, line < Config.gpioCount) ∧
    Port.reset.pinmap.lines.Nodup := by
  refine ⟨rfl, fun line h => ?_, by decide⟩
  have : line < 7 := by
    revert line
    decide
  unfold Config.gpioCount
  omega
theorem witness_wide_operands : (holding Seq.empty).ready ∧ handlesRise 0 (holding Seq.empty).seqs = true ∧
    (holding Seq.empty).memoryWf = true ∧ (holding Seq.empty).seqAt 0 = some Seq.empty ∧ aimed.targeted 0 ∧ 2 ^ 8 ≤ 256 ∧
    2 ^ 16 ≤ 65536 ∧ 2 ^ 32 ≤ 4294967296 :=
  ⟨⟨rfl, rfl⟩, by decide, by decide, rfl, targeted_aimed, by decide, by decide, by decide⟩
theorem witness_NotInitialised_init : unpowered.poweredOn ∧ (∀ line ∈ Port.reset.pinmap.lines, line < Config.gpioCount) ∧
    Port.reset.pinmap.lines.Nodup := ⟨⟨rfl, rfl⟩, witness_PortInit_legal.2⟩
theorem witness_PortInit_range : unpowered.fault = none ∧
    ∃ line ∈ (PinMap.mk Config.gpioCount 1 2 3 4 5 6).lines, Config.gpioCount ≤ line :=
  ⟨rfl, Config.gpioCount, by simp [PinMap.lines], Nat.le_refl _⟩
theorem witness_PortInit_shared : unpowered.fault = none ∧ ¬ (PinMap.mk 0 0 2 3 4 5 6).lines.Nodup := ⟨rfl, by decide⟩
theorem witness_Identify : State.reset.ready ∧ 4294967295 < 2 ^ 32 := ⟨⟨rfl, rfl⟩, by decide⟩
theorem witness_SetPads_fit : State.reset.ready ∧ 65535 < 2 ^ 16 ∧ 0 < 2 ^ 16 := ⟨⟨rfl, rfl⟩, by decide, by decide⟩
theorem witness_SetPads_wide : State.reset.ready ∧ 0xFFFF < max (max 0 0) (max 0 65536) := ⟨⟨rfl, rfl⟩, by decide⟩
theorem witness_SelectTarget : State.reset.ready ∧ 255 < 2 ^ 8 ∧ State.reset.chain.length ≤ 256 := ⟨⟨rfl, rfl⟩, by decide, by decide⟩
theorem witness_ProtocolChecks_none : State.reset.ready ∧
    (∃ row bit page red, Instr.efuseProgramRow 65536 0 256 false = .efuseProgramRow row bit page red) ∧
    State.reset.port.family = none := ⟨⟨rfl, rfl⟩, ⟨65536, 0, 256, false, rfl⟩, rfl⟩
theorem witness_ProtocolChecks_segments : (aimed.withPort { aimed.port with segments := 2#8 }).ready ∧
    (aimed.withPort { aimed.port with segments := 2#8 }).port.family ≠ none ∧
    (aimed.withPort { aimed.port with segments := 2#8 }).port.irLen ≠ 0#8 ∧
    (aimed.withPort { aimed.port with segments := 2#8 }).port.segments ≠ 1#8 := ⟨⟨rfl, rfl⟩, by decide, by decide, by decide⟩
theorem witness_ProtocolChecks_key : aimed.ready ∧ aimed.port.family ≠ none ∧ aimed.port.irLen ≠ 0#8 ∧
    aimed.port.segments = 1#8 ∧ aimed.key.loaded = false ∧
    (Instr.bbramVerify = .bbramProgram ∨ Instr.bbramVerify = .bbramVerify) :=
  ⟨⟨rfl, rfl⟩, by decide, by decide, rfl, rfl, .inr rfl⟩
theorem witness_DelayAndPoll : (18446744073709551615 : Nat) < 2 ^ 64 ∧ InPin.hwmReady ≠ .tdo := by decide
theorem witness_Jprogram : aimed.targeted 0 := targeted_aimed
theorem witness_EfuseProgramRow : aimed.targeted 0 ∧ 65535 < 2 ^ 16 ∧ 255 < 2 ^ 8 ∧ 31 < 32 ∧ 31 ≤ 31 :=
  ⟨targeted_aimed, by decide, by decide, by decide, by decide⟩
theorem witness_EfuseProgramRow_bench : (aimed.withEnv { now := 0, bench := some loopBench }).targeted 0 ∧
    loopBench.hwm.tReady = some 0 ∧ loopBench.hwm.tEnd = some 0 := ⟨⟨⟨rfl, rfl⟩, rfl, by decide, rfl⟩, rfl, rfl⟩
theorem witness_Handshake_answers : (looped .idle).env.bench = some loopBench ∧ loopBench.hwm.tReady = some 0 ∧
    loopBench.hwm.tEnd = some 0 := ⟨rfl, rfl, rfl⟩
theorem witness_Handshake_silent : ∃ s : State, s.env.bench = some (chained []) ∧ (chained []).hwm.tReady = none :=
  ⟨State.reset.withEnv { now := 0, bench := some (chained []) }, rfl, rfl⟩
theorem witness_EfuseReadRow : aimed.targeted 0 ∧ 65535 < 2 ^ 16 ∧ 255 < 2 ^ 8 := ⟨targeted_aimed, by decide, by decide⟩
theorem witness_KeyOperations : State.reset.ready ∧ (true = true → 4294967295 < 2 ^ 32) ∧ (List.replicate 32 0#8).length = 32 ∧
    (List.replicate 31 0#8).length ≠ 32 := ⟨⟨rfl, rfl⟩, fun _ => by decide, by decide, by decide⟩
theorem witness_BbramProgram : keyed.targeted 0 ∧ keyed.key.loaded = true := ⟨targeted_keyed, rfl⟩
theorem witness_BbramVerify : keyed.targeted 0 ∧ keyed.key.loaded = true ∧ (keyed.setCur .idle).port.cur = .idle :=
  ⟨targeted_keyed, rfl, rfl⟩

/-- A read-back whose last word, and whose last status, are given; the rest is zero. -/
def readBack (w : BitVec 32) (st : BitVec 5) : Readback :=
  { words := (Vector.replicate 8 0#32).set 7 w, status := (Vector.replicate 8 0#5).set 7 st }

theorem witness_VerifyChecks_status : (readBack 0#32 1#5).status[7] ≠ 0#5 ∧
    (∀ k' : Fin 8, k' < 7 → (readBack 0#32 1#5).status[k'.val] = 0#5) := by decide +kernel
theorem witness_VerifyChecks_data : (∀ k : Fin 8, (readBack 1#32 0#5).status[k.val] = 0#5) ∧
    (readBack 1#32 0#5).byte 31 ≠ State.reset.key.bytes[31] ∧
    (∀ j' : Fin 32, j' < 31 → (readBack 1#32 0#5).byte j' = State.reset.key.bytes[j'.val]) := by decide +kernel
theorem witness_VerifyChecks_equal : (∀ k : Fin 8, (readBack 0#32 0#5).status[k.val] = 0#5) ∧
    (∀ j : Fin 32, (readBack 0#32 0#5).byte j = State.reset.key.bytes[j.val]) := by decide +kernel
theorem witness_FaultIsSticky : (takeFault .badFlags State.reset).fault = some .badFlags := rfl
theorem witness_NotInitialised : unpowered.poweredOn ∧ ∀ m, Instr.keyReadback ≠ .portInit m := ⟨⟨rfl, rfl⟩, fun _ h => (nomatch h)⟩
theorem witness_exec : (∃ t, exec (.efuseProgramRow 0 0 0 false) aimed = .next t) ∧
    ∀ m, Instr.efuseProgramRow 0 0 0 false ≠ .portInit m := ⟨⟨_, rfl⟩, fun _ h => (nomatch h)⟩

/-- Reset with a run and a detection asked for. -/
def busy : State := (holding (record [0x502#64] [newBuffer 1] false)).withHostQueue [0x17#8 :: List.replicate 8 0#8, [0x20#8]]

theorem busy_steps : ∃ t, step busy = .next t := ⟨_, rfl⟩
theorem witness_StepKeepsMemory : busy.memoryWf = true := by decide
theorem witness_StepKeepsSequences : busy.seqsLegal = true := by decide
theorem witness_StepKeepsPins : busy.pinsParked ∧ busy.pinMapUsable := by
  refine ⟨fun _ => ⟨rfl, rfl⟩, fun _ => ?_⟩
  have h : ∀ l ∈ busy.port.pinmap.lines, l < Config.gpioCount := fun line h => witness_PortInit_legal.2.1 line h
  unfold pinMapLegal
  rw [Bool.and_eq_true, List.all_eq_true]
  exact ⟨by decide, fun l hl => by simpa using h l hl⟩
theorem witness_StepKeepsIdentityKeyResult : aimed.identityConsistent ∧ keyed.keyConsistent ∧
    resultLegal (ErrorCode.notReady 7).word := by
  refine ⟨.inr ⟨by decide, by decide, by decide⟩, ⟨fun h => (nomatch h), fun _ _ => rfl⟩, .inr ⟨_, rfl, fun k h => ?_, fun k h => ?_⟩⟩
  · cases h
    decide
  · cases h
theorem witness_StepKeepsChain : busy.chainConsistent := by
  refine ⟨rfl, Nat.zero_le _, fun k n h => ?_⟩
  cases h
theorem witness_StepKeepsRun_power_on : (stray.port.init = true → handlesRise 0 stray.seqs = true) ∧ stray.execLive :=
  ⟨fun h => (nomatch h), fun _ h => (nomatch h)⟩
theorem witness_StepKeepsRun : handlesRise 0 twoBuffers.seqs = true ∧ twoBuffers.execLive := by
  refine ⟨by decide, fun q h => ?_⟩
  cases h
  exact ⟨_, rfl, rfl, Nat.le_refl _⟩
theorem witness_BadCommandUnreachable : busy.seqsLegal = true ∧ busy.execLive ∧ busy.fault = none :=
  ⟨by decide, fun _ h => (nomatch h), rfl⟩

end Sys2Proof.Tests
end

section
/-! PROOF. The navigator (40_navigator.md): NAVIGATE clocks out the walk of its table entry and drives nothing else. -/

namespace Sys2Proof.Machine

open Sys2Proof

/-! ## The table -/

theorem navEntry_walk_length (a b : TapState) : (navEntry a b).walk.length = (navEntry a b).count := natBits_length _ _

theorem navEntry_reset_walk (a : TapState) : (navEntry a .reset).walk = List.replicate 5 true := by
  cases a <;> rfl

theorem navEntry_reset_count (a : TapState) : (navEntry a .reset).count = 5 := by
  rw [← navEntry_walk_length, navEntry_reset_walk, List.length_replicate]

theorem navEntry_self_count {a : TapState} (h : a ≠ .reset) : (navEntry a a).count = 0 := by
  cases a
  case reset => exact absurd rfl h
  all_goals rfl

/-- NAVIGATE looks up the table for neither `Reset` nor the present state (40_navigator.md R92); the bits it clocks there are the
table's all the same. -/
theorem navBits_eq_walk (a b : TapState) : navBits a b = (navEntry a b).walk := by
  unfold navBits
  split
  next hReset => rw [hReset, navEntry_reset_walk]
  next hReset =>
    split
    next hSame =>
      subst hSame
      exact (List.eq_nil_of_length_eq_zero ((navEntry_walk_length b b).trans (navEntry_self_count hReset))).symm
    next => rfl

/-! ## The operation -/

theorem exec_navigate_ready {s : State} (h : s.ready) (b : TapState) :
    exec (.navigate b) s = .next (complete .nothing (navigateTo b s)) :=
  operation_ready h fun s => complete .nothing (navigateTo b s)

/-- Completing an operation that only drove the pins leaves every other field its value. -/
theorem undrive_complete {s t : State} (h : Drives s t) (v : Returned) : undrive s (complete v t) = s := by
  rw [h.eq]
  cases s
  rfl

/-- Settles O8: the account of a navigation (`navigateTo_clocked`), read at the bits of the table entry. -/
theorem navigate : Obligations.Navigate := by
  refine ⟨fun s b hReady => ?_, navEntry_reset_count, fun _ => navEntry_self_count⟩
  obtain ⟨_, hNav⟩ := navigateTo_clocked b s
  rw [navBits_eq_walk] at hNav
  have hPulses := hNav.count
  rw [navEntry_walk_length] at hPulses
  exact ⟨complete .nothing (navigateTo b s), exec_navigate_ready hReady b, hPulses, navigateTo_cur b s, hNav.droveTms,
    hNav.droveTdi, hNav.droveHwm, hNav.tdi, hNav.hwm, rfl, rfl, undrive_complete hNav.drives .nothing⟩

end Sys2Proof.Machine
end

section
/-! PROOF. The operands and results of SHIFT as bits (20_memory.md R52, R53): the bytes of a stream hold its bits in place, and 0
above them. -/

namespace Sys2Proof

/-! ## The bytes of a stream -/

theorem bitsNat_testBit (bits : List Bool) (i : Nat) : (bitsNat bits).testBit i = bits.getD i false := by
  induction bits generalizing i with
  | nil => simp [bitsNat]
  | cons b rest ih =>
    have hBit : bitsNat (b :: rest) = Nat.bit b (bitsNat rest) := by rw [Nat.bit_val, bitsNat, Nat.add_comm]
    rw [hBit]
    cases i with
    | zero => exact Nat.testBit_bit_zero b _
    | succ i => rw [Nat.testBit_bit_succ, ih, List.getD_cons_succ]

/-- The bytes of a number hold its bits, and 0 from their end on. -/
theorem natBytes_bit (n v k : Nat) :
    ((natBytes n v).getD (k / 8) 0#8).getLsbD (k % 8) = (decide (k < 8 * n) && v.testBit k) := by
  induction n generalizing v k with
  | zero => simp [natBytes]
  | succ n ih =>
    rcases Nat.lt_or_ge k 8 with hFirst | hLater
    · have hIn : k < 8 * (n + 1) := by omega
      rw [Nat.div_eq_of_lt hFirst, Nat.mod_eq_of_lt hFirst, natBytes, List.getD_cons_zero, BitVec.getLsbD_ofNat,
        decide_eq_true hFirst, decide_eq_true hIn]
    · obtain ⟨j, rfl⟩ := Nat.exists_eq_add_of_le' hLater
      have hNext : (v / 256).testBit j = v.testBit (j + 8) := Nat.testBit_div_two_pow (n := 8) v j
      have hIn : j < 8 * n ↔ j + 8 < 8 * (n + 1) := by omega
      rw [Nat.add_div_right j (by omega), Nat.add_mod_right, natBytes, List.getD_cons_succ, ih, hNext, decide_eq_decide.mpr hIn]

/-- Bit `k` of the bytes of a stream is stream bit `k`, and 0 past the stream's end (41_shift_engine.md R106). -/
theorem bitsBytes_bit (bits : List Bool) (k : Nat) :
    ((bitsBytes bits).getD (k / 8) 0#8).getLsbD (k % 8) = bits.getD k false := by
  rw [bitsBytes, natBytes_bit, bitsNat_testBit]
  rcases Nat.lt_or_ge k bits.length with hIn | hPast
  · have hByte : k < 8 * bytesFor bits.length := by unfold bytesFor; omega
    rw [decide_eq_true hByte, Bool.true_and]
  · rw [List.getD_eq_default _ _ hPast, Bool.and_false]

/-- The stream read back from its bytes. -/
theorem bytesBits_bitsBytes (bits : List Bool) : bytesBits bits.length (bitsBytes bits) = bits := by
  refine List.ext_getElem (bytesBits_length _ _) fun i _ hi => ?_
  simp only [bytesBits, List.getElem_map, List.getElem_range, bitsBytes_bit, List.getD_eq_getElem _ _ hi]

/-! ## The TDI stream of SHIFT -/

theorem TdiMode.bits_length (n : Nat) (tdi : TdiMode) : (tdi.bits n).length = n := by
  cases tdi with
  | buf bytes => exact bytesBits_length n bytes
  | zeros => exact List.length_replicate
  | ones => exact List.length_replicate

theorem TdiMode.longEnough_of_bytes {n : Nat} {tdi : TdiMode} (h : ∀ bytes, tdi = .buf bytes → (n + 7) / 8 ≤ bytes.length) :
    tdi.longEnough n = true := by
  cases tdi with
  | buf bytes => exact decide_eq_true (h bytes rfl)
  | zeros => rfl
  | ones => rfl

end Sys2Proof
end

section
/-! PROOF. The host operation SHIFT (41_shift_engine.md R98 to R106), and its stream through the loopback driver (R107). -/

namespace Sys2Proof.Machine

open Sys2Proof

/-! ## The operation past its checks -/

/-- SHIFT, when none of its checks fails, completes with the shift engine's run over its TDI stream (41_shift_engine.md R98, R99,
R106). -/
theorem exec_shift_accepted {s : State} {dir : Dir} {n : Nat} {tdi : TdiMode} (hReady : s.ready)
    (hState : s.port.cur = dir.shiftState) (hPos : 1 ≤ n) (hMax : n ≤ Config.maxShiftBits) (hBytes : tdi.longEnough n = true)
    (capture : Bool) (exit : TapState) :
    exec (.shift dir n tdi capture exit) s = .next (complete
      (.shiftOut (if capture then some (bitsBytes (shiftEngine dir (tdi.bits n) exit s).1) else none)
        (decide ((shiftEngine dir (tdi.bits n) exit s).2.port.cur ≠ exit))) (shiftEngine dir (tdi.bits n) exit s).2) := by
  show execShift dir n tdi capture exit s = _
  rw [execShift, operation_ready hReady, if_neg (not_not_intro hState), if_neg (by omega), if_neg (Nat.not_lt.mpr hMax), hBytes,
    if_neg (by decide)]

/-! ## The loopback driver (60_exceptions.md R193) -/

/-- TDO is wired to TDI, with no chain between them. -/
def Env.loopedBack (e : Env) : Prop := ∃ b, e.bench = some b ∧ b.chain = none

theorem sample_tdo_of_loopedBack {e : Env} (h : e.loopedBack) (pins : Pins) (trace : List Event) :
    e.sample pins trace .tdo = pins.tdi := by
  obtain ⟨b, hBench, hChain⟩ := h
  simp only [Env.sample, hBench, hChain]

theorem risingEdge_of_loopedBack {e : Env} (h : e.loopedBack) (tms tdi : Bool) : e.risingEdge tms tdi = e := by
  obtain ⟨b, hBench, hChain⟩ := h
  simp only [Env.risingEdge, hBench, hChain]

theorem onWrite_tck_of_loopedBack {e : Env} (h : e.loopedBack) (before : Pins) (level : Bool) :
    e.onWrite before .tck level = e := by
  simp only [Env.onWrite, risingEdge_of_loopedBack h, ite_self]

/-- Sampling TDO is no event for the fuse-blow module. -/
theorem sampled_tdo (e : Env) (level : Bool) : e.sampled .tdo level = e := by
  unfold Env.sampled
  split
  · rfl
  · exact if_neg fun h => nomatch h.1

theorem pinWrite_tck_env_of_loopedBack {s : State} (h : s.env.loopedBack) (level : Bool) : (pinWrite .tck level s).env = s.env :=
  onWrite_tck_of_loopedBack h s.pins level

theorem pinRead_tdo_env (s : State) : (pinRead .tdo s).2.env = s.env := sampled_tdo s.env _

/-- A clock cycle that drives TDI samples the driven bit, and leaves the driver as it was. -/
theorem clock_of_loopedBack {s : State} (h : s.env.loopedBack) (tms tdi : Bool) :
    (clock tms (some tdi) s).1 = tdi ∧ (clock tms (some tdi) s).2.env = s.env := by
  have hRisen : (pinWrite .tck true (driveTdi (some tdi) (pinWrite .tms tms s))).env = s.env :=
    pinWrite_tck_env_of_loopedBack (s := driveTdi (some tdi) (pinWrite .tms tms s)) h true
  have hSampled := (pinRead_tdo_env _).trans hRisen
  exact ⟨sample_tdo_of_loopedBack (hRisen ▸ h) _ _, (pinWrite_tck_env_of_loopedBack (hSampled ▸ h) false).trans hSampled⟩

/-- Clock by clock, the samples of a shift are the bits it drives. -/
theorem shiftClocks_of_loopedBack {s : State} (h : s.env.loopedBack) (leave : Bool) (bits : List Bool) :
    (shiftClocks leave bits s).1 = bits := by
  induction bits generalizing s with
  | nil => rfl
  | cons b rest ih =>
    obtain ⟨hSample, hEnv⟩ := clock_of_loopedBack h (leave && rest.isEmpty) b
    rw [shiftClocks, hSample, ih (hEnv ▸ h)]

theorem paddedStream_unpadded {p : Port} {dir : Dir} (hPre : p.prePad dir = 0) (hPost : p.postPad dir = 0) (bits : List Bool) :
    paddedStream p dir bits = bits := by
  simp [paddedStream, hPre, hPost]

/-- With no pads, the shift engine captures the stream it drives. -/
theorem shiftEngine_of_loopedBack {s : State} {dir : Dir} (h : s.env.loopedBack) (hPre : s.port.prePad dir = 0)
    (hPost : s.port.postPad dir = 0) (bits : List Bool) (exit : TapState) : (shiftEngine dir bits exit s).1 = bits := by
  simp only [shiftEngine, paddedStream_unpadded hPre hPost, shiftClocks_of_loopedBack h, hPre, List.drop_zero, List.take_length]

/-- Settles O11: the engine captures the very stream (`shiftEngine_of_loopedBack`), and SHIFT returns it as bytes, which hold the
stream's bits and 0 above them (`bitsBytes_bit`). -/
theorem loopbackShift : Obligations.LoopbackShift := by
  intro s b dir n tdi exit hReady hBench hChain hPre hPost hState hPos hMax hBytes
  have hExec := exec_shift_accepted hReady hState hPos hMax (TdiMode.longEnough_of_bytes hBytes) true exit
  rw [shiftEngine_of_loopedBack ⟨b, hBench, hChain⟩ hPre hPost, if_pos rfl] at hExec
  have hLength : (tdi.bits n).length = n := tdi.bits_length n
  refine ⟨_, bitsBytes (tdi.bits n), _, hExec, rfl, ?_, ?_, fun k hk => ?_⟩
  · calc bytesBits n (bitsBytes (tdi.bits n))
        = bytesBits (tdi.bits n).length (bitsBytes (tdi.bits n)) := by rw [hLength]
      _ = tdi.bits n := bytesBits_bitsBytes _
  · rw [bitsBytes_length, hLength, bytesFor]
  · rw [bitsBytes_bit, List.getD_eq_default _ _ (hLength.trans_le hk)]

end Sys2Proof.Machine
end

section
/-! PROOF. The frame of the builder operations (42_sequence_builder.md R108): they write the sequence table, `RESULT`, `FAULT` and the
returned values, and nothing else. -/

namespace Sys2Proof.Machine

open Sys2Proof

/-- `t` differs from `s` in the sequence table, `RESULT`, `FAULT` and the returned values only. -/
def Builds (s t : State) : Prop :=
  t = (((s.withSeqs t.seqs).withResult t.result).withFault t.fault).withReturned t.returned

/-! ## The outcomes of an operation -/

theorem stuck_builds (s : State) : Builds s (stuck s) := rfl

theorem takeFault_builds (r : FaultReason) (s : State) : Builds s (takeFault r s) := rfl

theorem raiseError_builds (e : ErrorCode) (s : State) : Builds s (raiseError e s) := rfl

theorem complete_builds (v : Returned) (s : State) : Builds s (complete v s) := rfl

theorem complete_withSeqs_builds (v : Returned) (s : State) (seqs : List (Nat × Seq)) : Builds s (complete v (s.withSeqs seqs)) := rfl

theorem complete_setSeq_builds (r : Returned) (s : State) (q : Nat) (v : Seq) : Builds s (complete r (s.setSeq q v)) := rfl

/-! ## The wrappers: each only builds when its body does -/

theorem operation_builds {body : State → State} {s t : State} (hBody : Builds s (body s)) (h : operation body s = .next t) :
    Builds s t := by
  rw [operation_spec] at h
  cases h
  split
  · exact stuck_builds s
  · split
    · exact hBody
    · exact takeFault_builds .notInitialised s

theorem withinWidths_builds (ws : List (Nat × Nat)) {body : State → State} {s : State} (hBody : Builds s (body s)) :
    Builds s (withinWidths ws body s) := by
  rcases withinWidths_spec ws body s with ⟨-, h⟩ | ⟨-, h⟩ <;> rw [h]
  · exact hBody
  · exact takeFault_builds .valueTooWide s

theorem withSeq_builds (q : Nat) {body : Seq → State → State} {s : State} (hBody : ∀ v, Builds s (body v s)) :
    Builds s (withSeq q body s) := by
  rcases withSeq_spec q body s with ⟨-, h⟩ | ⟨v, -, h⟩ <;> rw [h]
  · exact takeFault_builds .badHandle s
  · exact hBody v

theorem withOpenSeq_builds (q : Nat) {body : Seq → State → State} {s : State} (hBody : ∀ v, Builds s (body v s)) :
    Builds s (withOpenSeq q body s) := by
  rcases withOpenSeq_spec q body s with ⟨-, h⟩ | ⟨v, -, ⟨-, h⟩ | ⟨-, h⟩⟩ <;> rw [h]
  · exact takeFault_builds .badHandle s
  · exact takeFault_builds .sequenceConsumed s
  · exact hBody v

/-! ## The operations -/

section

variable {s t : State} {q : Nat}

theorem exec_seqCreate_builds {node : Nat} (h : exec (.seqCreate node) s = .next t) : Builds s t := by
  refine operation_builds (withinWidths_builds _ ?_) h
  dsimp only
  split
  · exact complete_setSeq_builds ..
  · exact takeFault_builds ..

theorem exec_seqAddState_builds {st : TapState} {idle : Nat} (h : exec (.seqAddState q st idle) s = .next t) : Builds s t := by
  refine operation_builds (withOpenSeq_builds q fun v => withinWidths_builds _ ?_) h
  split
  · exact raiseError_builds ..
  · exact complete_setSeq_builds ..

theorem exec_seqAddShift_builds {flags n : Nat} {wantTdi wantTdo : Bool} {exit : TapState}
    (h : exec (.seqAddShift q flags n wantTdi wantTdo exit) s = .next t) : Builds s t := by
  refine operation_builds (withOpenSeq_builds q fun v => withinWidths_builds _ ?_) h
  split
  · exact takeFault_builds ..
  · split
    · exact raiseError_builds ..
    · split
      · exact takeFault_builds ..
      · split
        · exact takeFault_builds ..
        · exact complete_setSeq_builds ..

theorem exec_seqClear_builds (h : exec (.seqClear q) s = .next t) : Builds s t :=
  operation_builds (withSeq_builds q fun _ => complete_setSeq_builds ..) h

theorem exec_seqDelete_builds (h : exec (.seqDelete q) s = .next t) : Builds s t :=
  operation_builds (withSeq_builds q fun _ => complete_withSeqs_builds .nothing s (seqErase s.seqs q)) h

theorem exec_bufWrite_builds {handle o : Nat} {bytes : List Byte} (h : exec (.bufWrite q handle o bytes) s = .next t) :
    Builds s t := by
  refine operation_builds (withSeq_builds q fun v => withinWidths_builds _ ?_) h
  split
  · exact takeFault_builds ..
  · exact complete_setSeq_builds ..

theorem exec_bufRead_builds {handle o n : Nat} (h : exec (.bufRead q handle o n) s = .next t) : Builds s t := by
  refine operation_builds (withSeq_builds q fun v => withinWidths_builds _ ?_) h
  split
  · exact takeFault_builds ..
  · exact complete_builds ..

end

/-! ## What the frame leaves out -/

/-- Building drives and samples no pin, reads no timer, and leaves the Port and the external agents as they were. -/
theorem Builds.quiet {s t : State} (h : Builds s t) : t.pins = s.pins ∧ t.trace = s.trace ∧ t.env = s.env ∧ t.port = s.port := by
  rw [h]
  exact ⟨rfl, rfl, rfl, rfl⟩

/-- Settles O19: each of the seven operations only builds, and building is quiet. -/
theorem builderIsQuiet : Obligations.BuilderIsQuiet := by
  intro s t q node idle flags n h o st exit wantTdi wantTdo bytes hExec
  rcases hExec with hExec | hExec | hExec | hExec | hExec | hExec | hExec
  · exact (exec_seqCreate_builds hExec).quiet
  · exact (exec_seqAddState_builds hExec).quiet
  · exact (exec_seqAddShift_builds hExec).quiet
  · exact (exec_seqClear_builds hExec).quiet
  · exact (exec_seqDelete_builds hExec).quiet
  · exact (exec_bufWrite_builds hExec).quiet
  · exact (exec_bufRead_builds hExec).quiet

end Sys2Proof.Machine
end

section
/-! PROOF. The TCK pulses of the commands and of a run (43_executor.md R123): a command that does not fault pulses by the count of its
kind and leaves of the Port only `PORT.CUR` changed, so the counts of a run's commands add up. -/

namespace Sys2Proof.Machine

open Sys2Proof

/-! ## Pulses with the Port they leave -/

/-- TCK pulses and the state they leave `PORT.CUR` in, as `commandPulses` counts them, lead from `s` to `t`; the rest of the Port,
with it the pads the next command's count reads, is unchanged. -/
structure PulsesTo (s t : State) (count : Nat × TapState) : Prop where
  pulses : pulsed s t count.1
  port : t.port = s.port.withCur count.2

theorem Drives.port_withCur {s t : State} (h : Drives s t) : t.port = s.port.withCur t.port.cur :=
  calc t.port
    _ = (t.port.withCur s.port.cur).withCur t.port.cur := rfl
    _ = s.port.withCur t.port.cur := by rw [h.port]

theorem Clocked.pulsesTo {s t : State} {tms tdi tdo : List Bool} (h : Clocked s t tms tdi tdo) :
    PulsesTo s t (tms.length, t.port.cur) :=
  ⟨h.count, h.drives.port_withCur⟩

theorem rebuffer_port (r s : State) : (rebuffer r s).port = s.port := rfl

/-- Pulses and the Port are none of the buffers' and the executor's. -/
theorem PulsesTo.of_rebuffer {r s t : State} {count : Nat × TapState} (h : PulsesTo s (rebuffer r t) count) : PulsesTo s t count :=
  ⟨h.pulses, h.port⟩

/-- The counts of R123 and the table of the Navigator agree, on the `Reset` column too. -/
theorem walkPulses_eq_count (a b : TapState) : walkPulses a b = (navEntry a b).count := by
  rw [← navBits_length, navBits_eq_walk, navEntry_walk_length]

/-! ## The commands -/

/-- A command that leaves no fault was legal, and did its effect. -/
theorem commandBody_of_live {legal : Seq → Bool} {effect : State → State} {s : State}
    (h : (commandBody legal effect s).fault = none) : legal s.curSeq = true ∧ commandBody legal effect s = effect s := by
  unfold commandBody at h ⊢
  split at h
  · cases h
  · split at h
    · cases h
    next hInit hLegal =>
      exact ⟨Bool.of_not_eq_false hLegal, by rw [if_neg hInit, if_neg hLegal]⟩

theorem setStateBody_pulsesTo {st : TapState} {idle : Nat} {s : State} (h : (setStateBody st idle s).fault = none) :
    PulsesTo s (setStateBody st idle s) (walkPulses s.port.cur st + idle, st) := by
  obtain ⟨hLegal, hEffect⟩ := commandBody_of_live h
  obtain ⟨⟨_, hClocked⟩, hCur⟩ := setStateEffect_clocked (stable_of_legal hLegal) s
  have hPulses := hClocked.pulsesTo
  rw [List.length_append, List.length_replicate, navBits_length, hCur] at hPulses
  rw [setStateBody, hEffect]
  exact hPulses

theorem pos_of_shiftLegal {v : Seq} {n : Nat} {tdi : TdiSource} {tdo : Option Nat} (h : shiftLegal v n tdi tdo = true) : 1 ≤ n := by
  simp only [shiftLegal, shiftWellFormed, Bool.and_eq_true, and_assoc, decide_eq_true_eq] at h
  exact h.1

section

variable {dir : Dir} {n : Nat} {tdi : TdiSource} {tdo : Option Nat} {exit : TapState} {s : State}

theorem shiftBody_pulsesTo (h : (shiftBody dir n tdi tdo exit s).fault = none) :
    PulsesTo s (shiftBody dir n tdi tdo exit s)
      (enterPulses s.port.cur dir + paddedBits s.port dir n + leavePulses dir exit, exit) := by
  obtain ⟨hLegal, hEffect⟩ := commandBody_of_live h
  obtain ⟨_, hClocked, hCur, -⟩ := shiftEffect_clocked (pos_of_shiftLegal hLegal) tdi tdo exit s
  have hPulses := hClocked.pulsesTo
  rw [commandTms_length, rebuffer_port, hCur] at hPulses
  rw [shiftBody, hEffect]
  exact hPulses.of_rebuffer

/-- `EXEC.NEED_NAV` tells whether a walk followed the shift. -/
theorem shiftBody_needNav (h : (shiftBody dir n tdi tdo exit s).fault = none) :
    (shiftBody dir n tdi tdo exit s).exec.needNav = decide (exit ≠ dir.shiftState ∧ exit ≠ dir.exit1State) := by
  obtain ⟨hLegal, hEffect⟩ := commandBody_of_live h
  obtain ⟨_, -, -, -, -, hExec⟩ := shiftEffect_clocked (pos_of_shiftLegal hLegal) tdi tdo exit s
  rw [shiftBody, hEffect, hExec]

end

/-- The walk out of a shift is counted exactly when `EXEC.NEED_NAV` asks for it. -/
theorem leavePulses_eq (dir : Dir) (exit : TapState) :
    leavePulses dir exit =
      if decide (exit ≠ dir.shiftState ∧ exit ≠ dir.exit1State) then (navEntry dir.exit1State exit).count else 0 := by
  simp only [leavePulses, walkPulses_eq_count, decide_eq_true_eq, ← not_or, ite_not]

theorem exec_shiftCommand_live {s : State} (h : s.fault = none) (dir : Dir) (n : Nat) (tdi : TdiSource) (tdo : Option Nat)
    (exit : TapState) : exec (Instr.shiftCommand dir n tdi tdo exit) s = .next (shiftBody dir n tdi tdo exit s) := by
  cases dir
  · exact unlessFaulted_live h _
  · exact unlessFaulted_live h _

theorem exec_setState_live {s : State} (h : s.fault = none) (st : TapState) (idle : Nat) :
    exec (.setState st idle) s = .next (setStateBody st idle s) := unlessFaulted_live h _

/-! ## A run -/

/-- A word that leaves no fault holds a legal command, whose count is the word's. -/
theorem wordBody_pulsesTo {w : Word64} {s : State} (h : (wordBody w s).fault = none) :
    PulsesTo s (wordBody w s) (commandPulses s.port s.port.cur w) := by
  unfold wordBody at h ⊢
  unfold commandPulses
  split at h
  next st idle hWord => rw [hWord]; exact setStateBody_pulsesTo h
  next n tdi tdo exit hWord => rw [hWord]; exact shiftBody_pulsesTo h
  next n tdi tdo exit hWord => rw [hWord]; exact shiftBody_pulsesTo h
  next => cases h
  next => cases h

@[simp] theorem advancePc_fault (s : State) : (advancePc s).fault = s.fault := by
  unfold advancePc
  split <;> rfl

@[simp] theorem advancePc_port (s : State) : (advancePc s).port = s.port := by
  unfold advancePc
  split <;> rfl

@[simp] theorem advancePc_trace (s : State) : (advancePc s).trace = s.trace := by
  unfold advancePc
  split <;> rfl

/-- A run that leaves no fault had none after its first word, and went on from there. -/
theorem runWords_cons_of_live {w : Word64} {rest : List Word64} {s : State} (h : (runWords (w :: rest) s).fault = none) :
    (wordBody w s).fault = none ∧ runWords (w :: rest) s = runWords rest (advancePc (wordBody w s)) := by
  rw [runWords, advancePc_fault] at h ⊢
  split at h
  next hFault => rw [advancePc_fault] at h; rw [h] at hFault; cases hFault
  next hLive => exact ⟨Option.not_isSome_iff_eq_none.mp hLive, if_neg hLive⟩

/-- The count of a run reads the pads of the Port, not its `PORT.CUR`. -/
theorem runPulses_withCur (p : Port) (c cur : TapState) (words : List Word64) :
    runPulses (p.withCur c) cur words = runPulses p cur words := by
  induction words generalizing cur with
  | nil => rfl
  | cons w rest ih =>
    have hWord : commandPulses (p.withCur c) cur w = commandPulses p cur w := rfl
    rw [runPulses, runPulses, hWord, ih]

theorem runWords_pulsed {words : List Word64} {s : State} (h : (runWords words s).fault = none) :
    pulsed s (runWords words s) (runPulses s.port s.port.cur words) := by
  induction words generalizing s with
  | nil => rfl
  | cons w rest ih =>
    obtain ⟨hWordLive, hRun⟩ := runWords_cons_of_live h
    obtain ⟨hWord, hPort⟩ := wordBody_pulsesTo hWordLive
    rw [hRun] at h
    have hRest := ih h
    rw [advancePc_port, hPort, Port.withCur_cur, runPulses_withCur] at hRest
    unfold pulsed at *
    rw [advancePc_trace, hWord] at hRest
    rw [hRun, hRest, runPulses, Nat.add_assoc]

/-- A run that leaves no fault was of an open sequence, whose words all ran (43_executor.md R118). -/
theorem exec_seqRun_of_live {s t : State} {q : Nat} {v : Seq} (hReady : s.ready) (hSeq : s.seqAt q = some v)
    (hExec : exec (.seqRun q) s = .next t) (hLive : t.fault = none) :
    (runWords v.cmds (beginRun q v s)).fault = none ∧ t = endRun (runWords v.cmds (beginRun q v s)) := by
  have hBody := (operation_ready hReady _).symm.trans hExec
  injection hBody with hBody
  rcases withOpenSeq_spec q _ s with ⟨-, hAnswer⟩ | ⟨v', hSeq', ⟨-, hAnswer⟩ | ⟨-, hAnswer⟩⟩
  · rw [← hBody, hAnswer] at hLive; cases hLive
  · rw [← hBody, hAnswer] at hLive; cases hLive
  · obtain rfl : v = v' := Option.some.inj (hSeq.symm.trans hSeq')
    have hEnd := hAnswer.symm.trans hBody
    dsimp only at hEnd
    split at hEnd
    next hFault => rw [hEnd, hLive] at hFault; cases hFault
    next hDone => exact ⟨Option.not_isSome_iff_eq_none.mp hDone, hEnd.symm⟩

/-- Settles O15: the counts of the two kinds of command (`shiftBody_pulsesTo`, `setStateBody_pulsesTo`), and their sum by induction on
the words of the run (`runWords_pulsed`). The plain name is the model's function. -/
theorem commandPulses_hold : Obligations.CommandPulses := by
  refine ⟨fun s t dir n tdi tdo exit hReady hExec hLive => ?_, fun s t st idle hReady hExec hLive => ?_,
    fun s t q v hReady _ hSeq hExec hLive => ?_⟩
  · rw [exec_shiftCommand_live hReady.2] at hExec
    cases hExec
    have hPulses := (shiftBody_pulsesTo hLive).pulses
    rw [enterPulses, walkPulses_eq_count, leavePulses_eq, ← shiftBody_needNav hLive] at hPulses
    exact hPulses
  · rw [exec_setState_live hReady.2] at hExec
    cases hExec
    have hPulses := (setStateBody_pulsesTo hLive).pulses
    rw [walkPulses_eq_count] at hPulses
    exact hPulses
  · obtain ⟨hRunLive, rfl⟩ := exec_seqRun_of_live hReady hSeq hExec hLive
    exact runWords_pulsed hRunLive

end Sys2Proof.Machine
end

section
/-! PROOF. The chain decoder (44_discovery.md R133, R135): what one step of it takes from the captured stream, and what the
decoded list then says of that stream. -/

namespace Sys2Proof

/-! ## Streams and their values -/

theorem natBits_succ (n v : Nat) : natBits (n + 1) v = natBits n v ++ [v.testBit n] := by
  simp only [natBits, List.range_succ, List.map_append, List.map_singleton]

/-- A stream read back from its value. -/
theorem natBits_bitsNat (bits : List Bool) : natBits bits.length (bitsNat bits) = bits := by
  refine List.ext_getElem (natBits_length _ _) fun i _ hi => ?_
  simp only [natBits, List.getElem_map, List.getElem_range, bitsNat_testBit, List.getD_eq_getElem _ _ hi]

end Sys2Proof

namespace Sys2Proof.Machine

open Sys2Proof

/-! ## The entry at the front of a stream -/

/-- The bits of an ID code read off a stream are the 32 the decoder takes from it. -/
theorem bits_idCode_chainWord {c : List Bool} (h : 32 ≤ c.length) : (IdEntry.idCode (chainWord c)).bits = c.take 32 := by
  have hLength : (c.take 32).length = 32 := List.length_take_of_le h
  have hFits : bitsNat (c.take 32) < 2 ^ 32 := (bitsNat_lt _).trans_eq (congrArg (2 ^ ·) hLength)
  calc (IdEntry.idCode (chainWord c)).bits
      = natBits 32 (bitsNat (c.take 32)) := by rw [IdEntry.bits, chainWord, BitVec.toNat_ofNat, Nat.mod_eq_of_lt hFits]
    _ = natBits (c.take 32).length (bitsNat (c.take 32)) := by rw [hLength]
    _ = c.take 32 := natBits_bitsNat _

/-- The bit of a bypass register is the leading 0 the decoder takes. -/
theorem bits_bypass_of_leading {c : List Bool} (hLong : 32 ≤ c.length) (hZero : c.headD false = false) :
    IdEntry.bypass.bits = c.take 1 := by
  cases c with
  | nil => cases hLong
  | cons b rest => exact (congrArg ([·]) hZero).symm

/-- Bit 0 of the word is the stream's leading bit. -/
theorem chainWord_leading (c : List Bool) : (chainWord c).getLsbD 0 = c.headD false := by
  rw [chainWord, BitVec.getLsbD_ofNat, bitsNat_testBit]
  cases c <;> rfl

/-! ## The decoder -/

/-- Everything a decoder that succeeds can have found at the front of the stream: the sentinel; or, with room for one more entry,
the 32 bits of an ID code behind a leading 1, or the single 0 of a bypass register. -/
theorem decodeChain_cases {dummy : BitVec 32} {room : Nat} {c : List Bool} {l : List IdEntry}
    (h : decodeChain dummy room c = some l) :
    32 ≤ c.length ∧
      ((chainWord c = dummy ∧ l = []) ∨
        ∃ left rest, room = left + 1 ∧
          ((c.headD false = true ∧ decodeChain dummy left (c.drop 32) = some rest ∧ l = .idCode (chainWord c) :: rest) ∨
            (c.headD false = false ∧ decodeChain dummy left (c.drop 1) = some rest ∧ l = .bypass :: rest))) := by
  cases room with
  | zero =>
    rw [decodeChain] at h
    split at h
    · cases h
    next hLong =>
      split at h
      next hSentinel => exact ⟨Nat.le_of_not_lt hLong, .inl ⟨hSentinel, (Option.some.inj h).symm⟩⟩
      · cases h
  | succ left =>
    rw [decodeChain] at h
    split at h
    · cases h
    next hLong =>
      refine ⟨Nat.le_of_not_lt hLong, ?_⟩
      split at h
      next hSentinel => exact .inl ⟨hSentinel, (Option.some.inj h).symm⟩
      next =>
        split at h
        next hOne =>
          obtain ⟨rest, hRest, hList⟩ := Option.map_eq_some_iff.mp h
          exact .inr ⟨left, rest, rfl, .inl ⟨hOne, hRest, hList.symm⟩⟩
        next hZero =>
          obtain ⟨rest, hRest, hList⟩ := Option.map_eq_some_iff.mp h
          exact .inr ⟨left, rest, rfl, .inr ⟨Bool.of_not_eq_true hZero, hRest, hList.symm⟩⟩

/-- When an entry's bits are the first `k` of a stream and the bits of the later entries begin what follows them, all of them
together begin the stream. -/
theorem flatten_bits_begin {e : IdEntry} {rest : List IdEntry} {c : List Bool} {k : Nat} (hEntry : e.bits = c.take k)
    (hRest : (rest.map IdEntry.bits).flatten <+: c.drop k) : ((e :: rest).map IdEntry.bits).flatten <+: c := by
  rw [List.map_cons, List.flatten_cons, hEntry]
  conv_rhs => rw [← List.take_append_drop k c]
  exact (List.prefix_append_right_inj _).mpr hRest

/-- Settles O31: by induction on the room for entries, one step of the decoder at a time (`decodeChain_cases`). -/
theorem decodedIdCodesOdd : Obligations.DecodedIdCodesOdd := by
  intro dummy room
  induction room with
  | zero =>
    intro c l h
    obtain ⟨-, ⟨-, rfl⟩ | ⟨_, _, hRoom, -⟩⟩ := decodeChain_cases h
    · exact ⟨Nat.le_refl _, nofun, List.nil_prefix⟩
    · cases hRoom
  | succ left ih =>
    intro c l h
    obtain ⟨hLong, ⟨-, rfl⟩ | ⟨_, rest, hRoom, hStep⟩⟩ := decodeChain_cases h
    · exact ⟨Nat.zero_le _, nofun, List.nil_prefix⟩
    · cases hRoom
      rcases hStep with ⟨hOne, hRest, rfl⟩ | ⟨hZero, hRest, rfl⟩
      · obtain ⟨hCount, hOdd, hBegins⟩ := ih _ _ hRest
        refine ⟨Nat.succ_le_succ hCount, fun v hv => ?_, flatten_bits_begin (bits_idCode_chainWord hLong) hBegins⟩
        rcases List.mem_cons.mp hv with hFirst | hLater
        · cases hFirst
          exact (chainWord_leading c).trans hOne
        · exact hOdd v hLater
      · obtain ⟨hCount, hOdd, hBegins⟩ := ih _ _ hRest
        refine ⟨Nat.succ_le_succ hCount, fun v hv => ?_, flatten_bits_begin (bits_bypass_of_leading hLong hZero) hBegins⟩
        rcases List.mem_cons.mp hv with hFirst | hLater
        · cases hFirst
        · exact hOdd v hLater

end Sys2Proof.Machine
end

section
/-! PROOF. The scan of DETECT_TAPS (44_discovery.md R129 to R131, R138): two walks, one unpadded shift of the dummy words, and the
walk to `Idle`, whatever is then decoded from the samples. -/

namespace Sys2Proof.Machine

open Sys2Proof

/-! ## The dummy words -/

theorem dummyStream_length (dummy : BitVec 32) (maxTaps : Nat) : (dummyStream dummy maxTaps).length = 32 * (maxTaps + 1) := by
  rw [dummyStream, List.length_flatten, List.map_replicate, List.sum_replicate_nat, natBits_length, Nat.mul_comm]

/-- The last bit of the stream is the top bit of the dummy word. -/
theorem dummyStream_last (dummy : BitVec 32) (maxTaps : Nat) :
    dummyStream dummy maxTaps =
      (List.replicate maxTaps (natBits 32 dummy.toNat)).flatten ++ natBits 31 dummy.toNat ++ [dummy.getLsbD 31] := by
  rw [dummyStream, List.replicate_succ', List.flatten_append, List.flatten_singleton, natBits_succ 31, List.append_assoc,
    BitVec.testBit_toNat]

theorem lastLevel_concat (before : Bool) (bits : List Bool) (b : Bool) : lastLevel before (bits ++ [b]) = b :=
  lastLevel_append before bits [b]

/-! ## The scan -/

/-- Everything the shift engine does when a direction has no pads: it drives the caller's bits and no others, and answers every
sample. -/
theorem shiftEngine_clocked_unpadded {s : State} {dir : Dir} (hPre : s.port.prePad dir = 0) (hPost : s.port.postPad dir = 0)
    (bits : List Bool) (exit : TapState) :
    Clocked s (shiftEngine dir bits exit s).2 (shiftTms (decide (exit ≠ dir.shiftState)) bits.length) bits
      (shiftEngine dir bits exit s).1 := by
  obtain ⟨samples, hShift, hAnswer⟩ := shiftEngine_clocked dir bits exit s
  have hCount : paddedBits s.port dir bits.length = bits.length := by rw [paddedBits, hPre, hPost]; omega
  rw [hCount, paddedStream_unpadded hPre hPost] at hShift
  have hAll : samples.length = bits.length := hShift.sampledCount.trans (shiftTms_length _ _)
  rw [hPre, List.drop_zero, ← hAll, List.take_length] at hAnswer
  exact hAnswer ▸ hShift

/-- The TMS bits of the scan: to `Reset`, to `ShiftDR`, the shift of the dummy words, to `Idle` (44_discovery.md R129, R130). -/
def discoveryTms : List Bool :=
  List.replicate 5 true ++ navBits .reset .shiftDR ++ shiftTms true (dummyStream Config.dummyId Config.maxTaps).length ++
    navBits .exit1DR .idle

theorem discoveryTms_length : discoveryTms.length = 32 * Config.maxTaps + 43 := by
  have hIn : (navBits .reset .shiftDR).length = 4 := by decide
  have hOut : (navBits .exit1DR .idle).length = 2 := by decide
  simp only [discoveryTms, List.length_append, List.length_replicate, shiftTms_length, dummyStream_length, hIn, hOut]
  omega

/-- The two walks before the shift. -/
theorem walkToScan_clocked (s : State) :
    ∃ tdo, Clocked s (navigateTo .shiftDR (navigateTo .reset s)) (List.replicate 5 true ++ navBits .reset .shiftDR) [] tdo := by
  obtain ⟨toReset, hReset⟩ := navigateTo_clocked .reset s
  obtain ⟨toShift, hEnter⟩ := navigateTo_clocked .shiftDR (navigateTo .reset s)
  rw [navigateTo_cur] at hEnter
  exact ⟨_, hReset.trans hEnter⟩

/-- Everything the scan does, from the Port with its pads and target cleared (44_discovery.md R132): it drives the dummy words on
TDI, and answers the samples of their clocks. -/
theorem discoveryScan_clocked (s : State) :
    ∃ walkIn walkOut, walkIn.length = 9 ∧ walkOut.length = 2 ∧
      Clocked (s.withPort s.port.cleared) (discoveryScan s).2 discoveryTms (dummyStream Config.dummyId Config.maxTaps)
        (walkIn ++ (discoveryScan s).1 ++ walkOut) := by
  rw [discoveryScan]
  dsimp only
  obtain ⟨walkIn, hIn⟩ := walkToScan_clocked (s.withPort s.port.cleared)
  have hCur := navigateTo_cur .shiftDR (navigateTo .reset (s.withPort s.port.cleared))
  generalize navigateTo .shiftDR (navigateTo .reset (s.withPort s.port.cleared)) = s1 at hIn hCur
  obtain ⟨hPre, hPost⟩ := hIn.drives.pads .dr
  have hShift := shiftEngine_clocked_unpadded hPre hPost (dummyStream Config.dummyId Config.maxTaps) .idle
  have hExit : (shiftEngine .dr (dummyStream Config.dummyId Config.maxTaps) .idle s1).2.port.cur = .exit1DR :=
    shiftEngine_cur hCur (by rw [dummyStream_length]; omega)
  generalize shiftEngine .dr (dummyStream Config.dummyId Config.maxTaps) .idle s1 = r at hShift hExit
  obtain ⟨walkOut, hLeave⟩ := navigateTo_clocked .idle r.2
  rw [hExit] at hLeave
  have hLeaves : r.2.port.cur ≠ .idle := by rw [hExit]; decide
  have hScan := (hIn.trans hShift).trans hLeave
  rw [List.nil_append, List.append_nil] at hScan
  rw [if_pos hLeaves]
  exact ⟨walkIn, walkOut, hIn.sampledCount, hLeave.sampledCount, hScan⟩

/-! ## The operation -/

/-- Everything DETECT_TAPS can answer, when the block is ready: the scan, then both lists emptied with an error, or both written. -/
theorem exec_detectTaps_cases {s : State} (h : s.ready) :
    (decodeChain Config.dummyId Config.maxTaps (discoveryScan s).1 = none ∧
        exec .detectTaps s = .next (raiseError .tooManyTaps (((discoveryScan s).2.withIdList []).withChain []))) ∨
      ∃ l, decodeChain Config.dummyId Config.maxTaps (discoveryScan s).1 = some l ∧
        exec .detectTaps s = .next (complete (.idList l) (((discoveryScan s).2.withIdList l).withChain (chainOf 0 l))) := by
  have hExec : exec .detectTaps s = execDetectTaps s := rfl
  rw [hExec, execDetectTaps, operation_ready h]
  dsimp only
  cases hDecoded : decodeChain Config.dummyId Config.maxTaps (discoveryScan s).1 with
  | none => exact .inl ⟨rfl, rfl⟩
  | some l => exact .inr ⟨l, rfl, rfl⟩

/-- What is decoded drives nothing: the trace and the pins are those of the scan. -/
theorem exec_detectTaps_scan {s : State} (h : s.ready) :
    ∃ t, exec .detectTaps s = .next t ∧ t.trace = (discoveryScan s).2.trace ∧ t.pins = (discoveryScan s).2.pins := by
  have hCases := exec_detectTaps_cases h
  generalize discoveryScan s = scan at hCases ⊢
  rcases hCases with ⟨-, hExec⟩ | ⟨l, -, hExec⟩
  · exact ⟨_, hExec, rfl, rfl⟩
  · exact ⟨_, hExec, rfl, rfl⟩

/-- Settles O28: the account of the scan (`discoveryScan_clocked`), its TMS bits counted and its last TDI bit named. -/
theorem detectPulses : Obligations.DetectPulses := by
  intro s hReady
  obtain ⟨t, hExec, hTrace, hPins⟩ := exec_detectTaps_scan hReady
  obtain ⟨_, _, -, -, hScan⟩ := discoveryScan_clocked s
  have hPulses := hScan.count
  have hDriven := hScan.droveTdi
  have hLatch := hScan.tdi
  rw [discoveryTms_length] at hPulses
  rw [dummyStream_last] at hDriven hLatch
  rw [lastLevel_concat, ← hPins] at hLatch
  unfold pulsed at hPulses
  unfold drove at hDriven
  rw [← hTrace] at hPulses hDriven
  exact ⟨t, _, hExec, hPulses, hDriven, hLatch⟩

end Sys2Proof.Machine
end

section
/-! PROOF. The read-back checks of BBRAM_VERIFY (47_bbram.md R165 to R168): a word is its four bytes, so the lowest word that
differs from the key's is the word of the lowest byte that differs (R166), and the checks are read in the order status, data, CRC. -/

namespace Sys2Proof.Machine

open Sys2Proof

/-! ## Words as bytes -/

/-- A word is its four bytes, the first in bits 31:24. -/
theorem word_eq_iff_bytes {v w : BitVec 32} :
    v = w ↔ ∀ i : Fin 4, v.extractLsb' (24 - 8 * i.val) 8 = w.extractLsb' (24 - 8 * i.val) 8 := by
  refine ⟨fun h _ => by rw [h], fun h => BitVec.eq_of_getLsbD_eq fun b hb => ?_⟩
  have hByte := congrArg (·.getLsbD (b % 8)) (h ⟨3 - b / 8, by omega⟩)
  have hIn : b % 8 < 8 := by omega
  have hBit : 24 - 8 * (3 - b / 8) + b % 8 = b := by omega
  simpa only [BitVec.getLsbD_extractLsb', hIn, decide_true, Bool.true_and, hBit] using hByte

/-- Byte `i` of `KeyWord(k)` is key byte `4k + i` (47_bbram.md R162). -/
theorem keyWord_byte (key : Vector Byte 32) (k : Fin 8) (i : Fin 4) :
    (keyWord key k).extractLsb' (24 - 8 * i.val) 8 = key[4 * k.val + i.val] := by
  refine field_eq fun b hb => ?_
  rw [keyWord]
  match i with
  | 0 | 1 | 2 | 3 =>
    simp (disch := omega) only [append_low, append_high]
    congr 1
    omega

/-- A read-back word is the key's exactly when its four bytes are (47_bbram.md R166). -/
theorem word_eq_keyWord_iff {key : Vector Byte 32} {r : Readback} {k : Fin 8} :
    r.words[k.val] = keyWord key k ↔ ∀ j : Fin 32, j.val / 4 = k.val → r.byte j = key[j.val] := by
  simp only [word_eq_iff_bytes, keyWord_byte]
  constructor
  · intro h j hWord
    have hByte := h ⟨j.val % 4, by omega⟩
    simp only [← hWord, Nat.div_add_mod] at hByte
    exact hByte
  · intro h i
    have hDiv : (4 * k.val + i.val) / 4 = k.val := by omega
    have hMod : (4 * k.val + i.val) % 4 = i.val := by omega
    have hByte := h ⟨4 * k.val + i.val, by omega⟩ hDiv
    simp only [Readback.byte, hDiv, hMod] at hByte
    exact hByte

/-- Equal bytes are equal words (47_bbram.md R166). -/
theorem bytes_eq_iff_words_eq {key : Vector Byte 32} {r : Readback} :
    (∀ j : Fin 32, r.byte j = key[j.val]) ↔ ∀ k : Fin 8, r.words[k.val] = keyWord key k := by
  simp only [word_eq_keyWord_iff]
  exact ⟨fun h _ j _ => h j, fun h j => h ⟨j.val / 4, by omega⟩ j rfl⟩

/-! ## The lowest failing word -/

theorem find?_finRange_eq_some_iff {n : Nat} {p : Fin n → Bool} {k : Fin n} :
    (List.finRange n).find? p = some k ↔ p k = true ∧ ∀ k' < k, p k' = false := by
  rw [← Fin.find?_eq_find?_finRange, Fin.find?_eq_some_iff]

theorem firstNotReady_eq_some_iff {r : Readback} {k : Fin 8} :
    firstNotReady r = some k ↔ r.status[k.val] ≠ Config.bbramReady ∧ ∀ k' < k, r.status[k'.val] = Config.bbramReady := by
  simp [firstNotReady, find?_finRange_eq_some_iff]

theorem firstNotReady_eq_none_iff {r : Readback} :
    firstNotReady r = none ↔ ∀ k : Fin 8, r.status[k.val] = Config.bbramReady := by
  simp [firstNotReady]

theorem firstMismatch_eq_some_iff {key : Vector Byte 32} {r : Readback} {k : Fin 8} :
    firstMismatch key r = some k ↔
      r.words[k.val] ≠ keyWord key k ∧ ∀ k' < k, r.words[k'.val] = keyWord key k' := by
  simp [firstMismatch, find?_finRange_eq_some_iff]

theorem firstMismatch_eq_none_iff {key : Vector Byte 32} {r : Readback} :
    firstMismatch key r = none ↔ ∀ k : Fin 8, r.words[k.val] = keyWord key k := by
  simp [firstMismatch]

/-- The word of the lowest byte that differs is the lowest word that differs: the bytes of every lower word come before it. -/
theorem firstMismatch_of_lowest_byte {key : Vector Byte 32} {r : Readback} {j : Fin 32} (hDiffers : r.byte j ≠ key[j.val])
    (hLowest : ∀ j' < j, r.byte j' = key[j'.val]) : firstMismatch key r = some ⟨j.val / 4, by omega⟩ := by
  rw [firstMismatch_eq_some_iff]
  refine ⟨fun hEq => hDiffers (word_eq_keyWord_iff.mp hEq j rfl), fun k' hLower => word_eq_keyWord_iff.mpr fun j' hWord => ?_⟩
  have hDiv : k'.val < j.val / 4 := hLower
  exact hLowest j' (Fin.lt_def.mpr (by omega))

/-! ## The checks in their order -/

theorem checkReadback_of_notReady {key : KeyRegs} {r : Readback} {k : Fin 8} (h : firstNotReady r = some k) :
    checkReadback key r = some (.notReady k.val) := by
  simp only [checkReadback, h]

theorem checkReadback_of_mismatch {key : KeyRegs} {r : Readback} {k : Fin 8} (hReady : firstNotReady r = none)
    (h : firstMismatch key.bytes r = some k) : checkReadback key r = some (.dataMismatch k.val) := by
  simp only [checkReadback, hReady, h]

theorem checkReadback_of_match {key : KeyRegs} {r : Readback} (hReady : firstNotReady r = none)
    (h : firstMismatch key.bytes r = none) :
    checkReadback key r = if key.crcValid = true ∧ Config.bbramCrcFn r.words ≠ key.crc then some .crcMismatch else none := by
  simp only [checkReadback, hReady, h]

/-- Settles O46: one equation of the checks per outcome, the data check's word found from the lowest byte that differs
(`firstMismatch_of_lowest_byte`). -/
theorem verifyChecks : Obligations.VerifyChecks := by
  refine fun key r => ⟨fun k hStatus hLower => ?status, fun hReady => ⟨fun j hDiffers hLowest => ?data, fun hBytes => ?crc⟩,
    bytes_eq_iff_words_eq⟩
  case status => exact checkReadback_of_notReady (firstNotReady_eq_some_iff.mpr ⟨hStatus, hLower⟩)
  case data =>
    exact checkReadback_of_mismatch (firstNotReady_eq_none_iff.mpr hReady) (firstMismatch_of_lowest_byte hDiffers hLowest)
  case crc =>
    exact checkReadback_of_match (firstNotReady_eq_none_iff.mpr hReady)
      (firstMismatch_eq_none_iff.mpr (bytes_eq_iff_words_eq.mp hBytes))

end Sys2Proof.Machine
end

section
/-! PROOF. Before PORT_INIT (70_reset_and_hazards.md R197): every other instruction is an operation behind the check of `PORT.INIT`,
and PORT_INIT with a legal pin map leaves the block initialised. -/

namespace Sys2Proof.Machine

open Sys2Proof

/-! ## The check of `PORT.INIT` -/

theorem operation_poweredOn {s : State} (h : s.poweredOn) (body : State → State) :
    operation body s = .next (takeFault .notInitialised s) := by
  obtain ⟨hInit, hLive⟩ := h
  rw [operation_spec, hInit, hLive]
  rfl

/-- A command checks `PORT.INIT` first in its body (43_executor.md R118), so it is an operation too. -/
theorem unlessFaulted_commandBody (legal : Seq → Bool) (effect : State → State) (s : State) :
    unlessFaulted (commandBody legal effect) s =
      operation (fun s => if legal s.curSeq = false then takeFault .badCommand s else effect s) s := by
  rw [operation_spec, unlessFaulted, commandBody]
  cases s.port.init <;> rfl

/-- Every instruction but PORT_INIT is an operation: nothing of it happens before the checks of 60_exceptions.md R178 (1) and (3). -/
theorem exec_eq_operation {i : Instr} (h : ∀ m, i ≠ .portInit m) : ∃ body, ∀ s, exec i s = operation body s := by
  cases i
  case portInit m => exact absurd rfl (h m)
  case setState | shiftDr | shiftIr => exact ⟨_, unlessFaulted_commandBody _ _⟩
  all_goals exact ⟨_, fun _ => rfl⟩

/-! ## PORT_INIT with a legal pin map -/

theorem allDistinct_iff_nodup (l : List Nat) : allDistinct l = true ↔ l.Nodup := by
  induction l with
  | nil => simp [allDistinct]
  | cons x xs ih => simp [allDistinct, ih]

theorem pinMapLegal_iff {gpioCount : Nat} {m : PinMap} :
    pinMapLegal gpioCount m = true ↔ m.lines.Nodup ∧ ∀ line ∈ m.lines, line < gpioCount := by
  simp [pinMapLegal, allDistinct_iff_nodup]

theorem exec_portInit_legal {s : State} {m : PinMap} (hLive : s.fault = none) (hLegal : pinMapLegal Config.gpioCount m = true) :
    exec (.portInit m) s = .next (complete .nothing (portInitEffect m s)) := by
  show execPortInit m s = _
  rw [execPortInit, unlessFaulted_live hLive, if_pos hLegal]

theorem navigateTo_drives (b : TapState) (s : State) : Drives s (navigateTo b s) := by
  obtain ⟨_, hNav⟩ := navigateTo_clocked b s
  exact hNav.drives

theorem portInitEffect_init (m : PinMap) (s : State) : (portInitEffect m s).port.init = true :=
  (navigateTo_drives .reset _).port_fields.1

theorem portInitEffect_fault (m : PinMap) (s : State) : (portInitEffect m s).fault = s.fault :=
  (navigateTo_drives .reset _).fault

/-- Settles O48: an operation of a block that is not initialised faults (`exec_eq_operation`, `operation_poweredOn`), and PORT_INIT
writes `PORT.INIT` before a navigation, which keeps it (`portInitEffect_init`). -/
theorem notInitialised : Obligations.NotInitialised := by
  refine ⟨fun s i hPowered hOther => ?_, fun s m ⟨_, hLive⟩ hRange hDistinct => ?_⟩
  · obtain ⟨body, hExec⟩ := exec_eq_operation hOther
    rw [hExec, operation_poweredOn hPowered]
  · refine ⟨_, exec_portInit_legal hLive (pinMapLegal_iff.mpr ⟨hDistinct, hRange⟩), ?_, ?_⟩
    · rw [complete_port, portInitEffect_init]
    · rw [complete_fault, portInitEffect_fault, hLive]

end Sys2Proof.Machine
end

section
/-! PROOF. The encoder and the decoder (30_encoding.md R70 to R77): a record or a word read back gives its instruction, and a word the
decoder accepts is the concatenation of the fields it reads. -/

namespace Sys2Proof

/-! ## The pieces of a host record -/

theorem takeTdiMode_putTdiMode (op : Byte) {m : TdiMode} (h : m.fits = true) (rest : List Byte) :
    takeTdiMode op (putTdiMode m ++ rest) = .ok (m, rest) := by
  cases m with
  | buf bs =>
    have hTag : takeSmall op 3 (0#8 :: (putBytes bs ++ rest)) = .ok (0, putBytes bs ++ rest) := by rw [takeSmall]; rfl
    simp only [takeTdiMode, putTdiMode, List.cons_append, hTag, takeBytes_putBytes op h, bind, Except.bind, if_true]
  | zeros => rfl
  | ones => rfl

theorem takeFour_putNum (op : Byte) {a b c d : Nat} (ha : fitsOperand a = true) (hb : fitsOperand b = true)
    (hc : fitsOperand c = true) (hd : fitsOperand d = true) (rest : List Byte) :
    takeFour op (putNum a ++ (putNum b ++ (putNum c ++ (putNum d ++ rest)))) = .ok ((a, b, c, d), rest) := by
  simp only [takeFour, takeNum_putNum op ha, takeNum_putNum op hb, takeNum_putNum op hc, takeNum_putNum op hd, bind, Except.bind]

theorem takePinMap_putPinMap (op : Byte) {m : PinMap} (h : m.fits = true) (rest : List Byte) :
    takePinMap op (putPinMap m ++ rest) = .ok (m, rest) := by
  simp only [PinMap.fits, Bool.and_eq_true, and_assoc] at h
  obtain ⟨hTms, hTck, hTdi, hTdo, hStart, hReady, hEnd⟩ := h
  simp only [takePinMap, putPinMap, List.append_assoc, takeFour_putNum op hTms hTck hTdi hTdo, takeNum_putNum op hStart,
    takeNum_putNum op hReady, takeNum_putNum op hEnd, bind, Except.bind]

/-! ## Host records -/

/-- The arguments of each host operation are read back, one piece of the record after another. -/
theorem decodeHostOp_encode {i : Instr} (hHost : i.isHostOp = true) (h : i.wellFormed = true) (rest : List Byte) :
    ∃ record, encode i = .hostOp record ∧ decodeHostOp (record ++ rest) = .ok (i, rest) := by
  cases i
  case setState | shiftDr | shiftIr => cases hHost
  all_goals
    refine ⟨_, rfl, ?_⟩
    simp only [Instr.wellFormed, Bool.and_eq_true, and_assoc] at h
  case shift d n m c e =>
    simp [decodeHostOp, decodePinOp, List.append_assoc, takeBit_putBit, takeNum_putNum, takeTdiMode_putTdiMode,
      takeState_putState, h, bind, Except.bind]
    cases d <;> rfl
  all_goals
    simp [decodeHostOp, decodePinOp, decodeSeqOp, decodeProtocolOp, List.append_assoc, takeBit_putBit, takeNum_putNum,
      takeState_putState, takeBytes_putBytes, takeFour_putNum, takePinMap_putPinMap, h, bind, Except.bind]

/-! ## Command words -/

theorem decodeCommand_encodeSetState {st : TapState} {idle : Nat} (h : idle < 2 ^ 32) :
    decodeCommand (encodeSetState st idle) = .ok (.setState st idle) := by
  rw [decodeCommand, encodeSetState_kind, if_neg (by decide), decodeSetState,
    if_pos ⟨encodeSetState_low st idle, encodeSetState_high st idle⟩, encodeSetState_state, encodeSetState_idle, tapStateOf_code,
    BitVec.toNat_ofNat, Nat.mod_eq_of_lt h]

/-- A SHIFT word gives its command back when its count and its handles fit their fields. -/
theorem decodeCommand_encodeShift {dir : Dir} {n : Nat} {tdi : TdiSource} {tdo : Option Nat} (hCount : n < 2 ^ 23)
    (hTdi : tdi.fits = true) (hTdo : tdoFits tdo = true) (exit : TapState) :
    decodeCommand (encodeShift dir n tdi tdo exit) = .ok (Instr.shiftCommand dir n tdi tdo exit) := by
  rw [decodeCommand, encodeShift_kind, if_pos rfl, decodeShift]
  simp only [encodeShift_dir, encodeShift_in, encodeShift_out, encodeShift_fill, encodeShift_exit, encodeShift_count,
    encodeShift_tdi, encodeShift_tdo, tapStateOf_code, BitVec.toNat_ofNat, Nat.mod_eq_of_lt hCount]
  rw [if_pos (by cases tdi <;> cases tdo <;> simp [TdiSource.present, TdiSource.handleBits, TdiSource.fillBit])]
  have hSource : (if tdi.present = true then TdiSource.buf tdi.handleBits.toNat else TdiSource.fill tdi.fillBit) = tdi := by
    cases tdi with
    | buf h =>
      have hFits : h < 2 ^ 16 := of_decide_eq_true hTdi
      simpa [TdiSource.present, TdiSource.handleBits] using hFits
    | fill ones => rfl
  have hCapture : (if tdo.isSome = true then some (tdo.getD 0 % 2 ^ 16) else none) = tdo := by
    cases tdo with
    | some h =>
      have hFits : h < 2 ^ 16 := of_decide_eq_true hTdo
      simpa using hFits
    | none => rfl
  rw [hSource, hCapture]
  cases dir <;> rfl

theorem encode_shiftCommand (dir : Dir) (n : Nat) (tdi : TdiSource) (tdo : Option Nat) (exit : TapState) :
    encode (Instr.shiftCommand dir n tdi tdo exit) = .command (encodeShift dir n tdi tdo exit) := by
  cases dir <;> rfl

theorem shiftWellFormed_iff {n : Nat} {tdi : TdiSource} {tdo : Option Nat} :
    shiftWellFormed n tdi tdo = true ↔ 1 ≤ n ∧ n < 2 ^ 23 ∧ tdi.fits = true ∧ tdoFits tdo = true := by
  simp only [shiftWellFormed, Bool.and_eq_true, decide_eq_true_eq, and_assoc]

theorem decode_encode_shiftCommand {dir : Dir} {n : Nat} {tdi : TdiSource} {tdo : Option Nat} {exit : TapState}
    (h : shiftWellFormed n tdi tdo = true) :
    decode (encode (Instr.shiftCommand dir n tdi tdo exit)) = .ok (Instr.shiftCommand dir n tdi tdo exit) := by
  obtain ⟨-, hCount, hTdi, hTdo⟩ := shiftWellFormed_iff.mp h
  rw [encode_shiftCommand, decode, decodeCommand_encodeShift hCount hTdi hTdo]

/-- Settles O1: a command by the fields of its word, a host operation by the pieces of its record (`decodeHostOp_encode`). -/
theorem decodeEncode : Obligations.DecodeEncode := by
  intro i h
  cases hHost : i.isHostOp with
  | true =>
    obtain ⟨record, hRecord, hDecoded⟩ := decodeHostOp_encode hHost h []
    rw [List.append_nil] at hDecoded
    rw [hRecord, decode, hDecoded]
  | false =>
    cases i
    case setState st idle =>
      simp only [Instr.wellFormed, Bool.and_eq_true, decide_eq_true_eq] at h
      exact decodeCommand_encodeSetState h.1
    case shiftDr n tdi tdo exit => exact decode_encode_shiftCommand (dir := .dr) h
    case shiftIr n tdi tdo exit => exact decode_encode_shiftCommand (dir := .ir) h
    all_goals cases hHost

/-! ## A word as its fields -/

/-- Two neighbouring fields of a word are one field. -/
theorem extractLsb'_append {m : Nat} (w : BitVec m) (lo k j : Nat) :
    w.extractLsb' (lo + k) j ++ w.extractLsb' lo k = w.extractLsb' lo (j + k) := by
  refine BitVec.eq_of_getLsbD_eq fun i hi => ?_
  rcases Nat.lt_or_ge i k with hLow | hHigh
  · rw [append_low _ _ hLow, BitVec.getLsbD_extractLsb', BitVec.getLsbD_extractLsb', decide_eq_true hLow, decide_eq_true hi]
  · have hIn : i - k < j := by omega
    have hBit : lo + k + (i - k) = lo + i := by omega
    rw [append_high _ _ hHigh, BitVec.getLsbD_extractLsb', BitVec.getLsbD_extractLsb', decide_eq_true hIn, decide_eq_true hi, hBit]

/-- A one-bit field is that bit. -/
theorem ofBool_getLsbD {m : Nat} (w : BitVec m) (k : Nat) : BitVec.ofBool (w.getLsbD k) = w.extractLsb' k 1 := by
  refine BitVec.eq_of_getLsbD_eq fun i hi => ?_
  obtain rfl : i = 0 := by omega
  simp

theorem ofNat_toNat_self {k : Nat} (v : BitVec k) : BitVec.ofNat k v.toNat = v := by
  rw [BitVec.ofNat_toNat, BitVec.setWidth_eq]

theorem setState_word_eq {w : Word64} (hKind : w.getLsbD 0 = false) (hLow : w.extractLsb' 5 3 = 0#3)
    (hHigh : w.extractLsb' 40 24 = 0#24) :
    encodeSetState (tapStateOf (w.extractLsb' 1 4)) (w.extractLsb' 8 32).toNat = w := by
  have hBit : w.extractLsb' 0 1 = 0#1 := by rw [← ofBool_getLsbD, hKind]; rfl
  rw [encodeSetState, code_tapStateOf, ofNat_toNat_self, ← hLow, ← hHigh, ← hBit]
  rw [extractLsb'_append w 8 32 24, extractLsb'_append w 5 3 (24 + 32), extractLsb'_append w 1 4, extractLsb'_append w 0 1]
  exact BitVec.extractLsb'_eq_self

/-- Everything a SETSTATE word that decodes is. -/
theorem decodeSetState_ok {w : Word64} {i : Instr} (hKind : w.getLsbD 0 = false) (h : decodeSetState w = .ok i) :
    ∃ st idle, i = .setState st idle ∧ encodeSetState st idle = w := by
  unfold decodeSetState at h
  split at h
  next hFields => cases h; exact ⟨_, _, rfl, setState_word_eq hKind hFields.1 hFields.2⟩
  next => cases h

/-- A word whose fields are those of a SHIFT command is the command's word. -/
theorem encodeShift_eq_word {w : Word64} {dir : Dir} {n : Nat} {tdi : TdiSource} {tdo : Option Nat} {exit : TapState}
    (hKind : w.getLsbD 0 = true) (hDir : dir.bit = w.getLsbD 1) (hIn : tdi.present = w.getLsbD 2) (hOut : tdo.isSome = w.getLsbD 3)
    (hFill : tdi.fillBit = w.getLsbD 4) (hExit : exit.code = w.extractLsb' 5 4) (hCount : BitVec.ofNat 23 n = w.extractLsb' 9 23)
    (hTdi : tdi.handleBits = w.extractLsb' 32 16) (hTdo : BitVec.ofNat 16 (tdo.getD 0) = w.extractLsb' 48 16) :
    encodeShift dir n tdi tdo exit = w := by
  have hOne : (1#1 : BitVec 1) = w.extractLsb' 0 1 := by rw [← ofBool_getLsbD, hKind]; rfl
  rw [encodeShift, hDir, hIn, hOut, hFill, hExit, hCount, hTdi, hTdo, hOne]
  simp only [ofBool_getLsbD]
  rw [extractLsb'_append w 32 16 16, extractLsb'_append w 9 23 (16 + 16), extractLsb'_append w 5 4, extractLsb'_append w 4 1,
    extractLsb'_append w 3 1, extractLsb'_append w 2 1, extractLsb'_append w 1 1, extractLsb'_append w 0 1]
  exact BitVec.extractLsb'_eq_self

/-- Everything a SHIFT word that decodes is. -/
theorem decodeShift_ok {w : Word64} {i : Instr} (hKind : w.getLsbD 0 = true) (h : decodeShift w = .ok i) :
    ∃ dir n tdi tdo exit, i = Instr.shiftCommand dir n tdi tdo exit ∧ encodeShift dir n tdi tdo exit = w := by
  simp only [decodeShift] at h
  split at h
  next hStray =>
    obtain ⟨hNoTdi, hNoTdo, hNoFill⟩ := hStray
    refine ⟨if w.getLsbD 1 then .ir else .dr, (w.extractLsb' 9 23).toNat,
      if w.getLsbD 2 then .buf (w.extractLsb' 32 16).toNat else .fill (w.getLsbD 4),
      if w.getLsbD 3 then some (w.extractLsb' 48 16).toNat else none, tapStateOf (w.extractLsb' 5 4), ?_, ?_⟩
    · cases hDir : w.getLsbD 1 <;> rw [hDir] at h <;> cases h <;> rfl
    · refine encodeShift_eq_word hKind ?dir ?tdiPresent ?tdoPresent ?fill (code_tapStateOf _) ?count ?tdi ?tdo
      case dir => cases w.getLsbD 1 <;> rfl
      case tdiPresent => cases w.getLsbD 2 <;> rfl
      case tdoPresent => cases w.getLsbD 3 <;> rfl
      case fill =>
        cases hIn : w.getLsbD 2
        · rfl
        · exact (hNoFill hIn).symm
      case count => exact ofNat_toNat_self _
      case tdi =>
        cases hIn : w.getLsbD 2
        · exact (hNoTdi hIn).symm
        · exact ofNat_toNat_self _
      case tdo =>
        cases hOut : w.getLsbD 3
        · exact (hNoTdo hOut).symm
        · exact ofNat_toNat_self _
  next => cases h

/-- Everything a word that decodes is: the word of a SETSTATE, or the word of a SHIFT command. -/
theorem decodeCommand_ok {w : Word64} {i : Instr} (h : decodeCommand w = .ok i) :
    (∃ st idle, i = .setState st idle ∧ encodeSetState st idle = w) ∨
      ∃ dir n tdi tdo exit, i = Instr.shiftCommand dir n tdi tdo exit ∧ encodeShift dir n tdi tdo exit = w := by
  unfold decodeCommand at h
  split at h
  next hKind => exact .inr (decodeShift_ok hKind h)
  next hKind => exact .inl (decodeSetState_ok (Bool.of_not_eq_true hKind) h)

/-- Settles O2: the fields the decoder reads, put side by side, are the whole word. -/
theorem commandWordsCanonical : Obligations.CommandWordsCanonical := by
  intro w i h
  rcases decodeCommand_ok h with ⟨st, idle, rfl, rfl⟩ | ⟨dir, n, tdi, tdo, exit, rfl, rfl⟩
  · rfl
  · exact encode_shiftCommand dir n tdi tdo exit

/-- Settles O4: each word evaluates. -/
theorem decodeWords : Obligations.DecodeWords := by
  unfold Obligations.DecodeWords
  decide +kernel

end Sys2Proof

namespace Sys2Proof.Machine

open Sys2Proof

/-! ## Legal words (30_encoding.md R75) -/

/-- 30_encoding.md R75 as the machine applies it: what the decoder accepts, then the check of the command. -/
def wordLegal (v : Seq) (w : Word64) : Bool :=
  match decodeCommand w with
  | .ok (.setState st idle) => setStateLegal st idle
  | .ok (.shiftDr n tdi tdo _) => shiftLegal v n tdi tdo
  | .ok (.shiftIr n tdi tdo _) => shiftLegal v n tdi tdo
  | _ => false

theorem field_toNat {m : Nat} (w : BitVec m) (lo k : Nat) : (w.extractLsb' lo k).toNat = w.toNat / 2 ^ lo % 2 ^ k := by
  rw [BitVec.extractLsb'_toNat, Nat.shiftRight_eq_div_pow]

theorem topField_toNat {w : Word64} {lo k : Nat} (h : lo + k = 64) : (w.extractLsb' lo k).toNat = w.toNat / 2 ^ lo := by
  rw [field_toNat]
  refine Nat.mod_eq_of_lt (Nat.div_lt_of_lt_mul ?_)
  rw [← pow_add, h]
  exact w.isLt

theorem field_eq_zero_iff {m : Nat} {w : BitVec m} {lo k : Nat} : w.extractLsb' lo k = 0#k ↔ (w.extractLsb' lo k).toNat = 0 := by
  rw [BitVec.toNat_eq, BitVec.toNat_zero]

/-- A SETSTATE word's legality on its bits is that of the command it decodes to. -/
theorem legalBits_setState {w : Word64} (hKind : w.getLsbD 0 = false) (v : Seq) : legalBits v.pool w = wordLegal v w := by
  have hIdle : decide ((w.extractLsb' 8 32).toNat < 2 ^ 32) = true := decide_eq_true (BitVec.isLt _)
  simp only [legalBits, wordLegal, decodeCommand, decodeSetState, hKind, Bool.false_eq_true, if_false, ← field_toNat,
    ← topField_toNat (w := w) (lo := 40) (k := 24) rfl, field_eq_zero_iff, ← Bool.decide_and]
  by_cases hFields : (w.extractLsb' 5 3).toNat = 0 ∧ (w.extractLsb' 40 24).toNat = 0
  · simp only [if_pos hFields, decide_eq_true hFields, setStateLegal, Instr.wellFormed, hIdle, Bool.true_and]
  · simp only [if_neg hFields, decide_eq_false hFields, Bool.false_and]

/-- 30_encoding.md R75 (c), (d), (e) on the fields of a SHIFT word. -/
theorem legalBits_of_shift {w : Word64} (hKind : w.getLsbD 0 = true) (pool : List Memory) :
    legalBits pool w = (decide (1 ≤ (w.extractLsb' 9 23).toNat) && (w.getLsbD 2 || decide ((w.extractLsb' 32 16).toNat = 0)) &&
      (w.getLsbD 3 || decide ((w.extractLsb' 48 16).toNat = 0)) &&
      (!w.getLsbD 2 || (!w.getLsbD 4 && holdsBits pool (w.extractLsb' 9 23).toNat (w.extractLsb' 32 16).toNat)) &&
      (!w.getLsbD 3 || holdsBits pool (w.extractLsb' 9 23).toNat (w.extractLsb' 48 16).toNat)) := by
  simp only [legalBits, hKind, if_true, ← field_toNat, ← topField_toNat (w := w) (lo := 48) (k := 16) rfl, holdsBits, bytesFor]
  cases pool[(w.extractLsb' 32 16).toNat]? <;> cases pool[(w.extractLsb' 48 16).toNat]? <;> rfl

/-- A SHIFT word's legality on its bits is that of the command it decodes to. -/
theorem legalBits_shift {w : Word64} (hKind : w.getLsbD 0 = true) (v : Seq) : legalBits v.pool w = wordLegal v w := by
  have hCount : decide ((w.extractLsb' 9 23).toNat < 2 ^ 23) = true := decide_eq_true (BitVec.isLt _)
  have hTdi : decide ((w.extractLsb' 32 16).toNat < 2 ^ 16) = true := decide_eq_true (BitVec.isLt _)
  have hTdo : decide ((w.extractLsb' 48 16).toNat < 2 ^ 16) = true := decide_eq_true (BitVec.isLt _)
  simp only [legalBits_of_shift hKind, wordLegal, decodeCommand, decodeShift, hKind, if_true, field_eq_zero_iff]
  generalize (w.extractLsb' 9 23).toNat = n at *
  generalize (w.extractLsb' 32 16).toNat = t at *
  generalize (w.extractLsb' 48 16).toNat = q at *
  generalize w.getLsbD 2 = inBit
  generalize w.getLsbD 3 = outBit
  generalize w.getLsbD 4 = fillBit
  by_cases hStray : (inBit = false → t = 0) ∧ (outBit = false → q = 0) ∧ (inBit = true → fillBit = false)
  · simp only [if_pos hStray]
    have hShift : (decide (1 ≤ n) && (inBit || decide (t = 0)) && (outBit || decide (q = 0)) &&
        (!inBit || (!fillBit && holdsBits v.pool n t)) && (!outBit || holdsBits v.pool n q)) =
        shiftLegal v n (if inBit = true then .buf t else .fill fillBit) (if outBit = true then some q else none) := by
      cases inBit <;> cases outBit <;> simp_all [shiftLegal, shiftWellFormed, TdiSource.fits, tdoFits, tdiLive, tdoLive]
    rw [hShift]
    cases w.getLsbD 1 <;> rfl
  · simp only [if_neg hStray]
    cases inBit <;> cases outBit <;> simp_all

/-- 30_encoding.md R75 read on the bits of a word is what the machine checks. -/
theorem legalBits_eq_wordLegal (v : Seq) (w : Word64) : legalBits v.pool w = wordLegal v w := by
  cases hKind : w.getLsbD 0
  · exact legalBits_setState hKind v
  · exact legalBits_shift hKind v

theorem wordLegal_setState (v : Seq) (st : TapState) (idle : Nat) {w : Word64} (h : decodeCommand w = .ok (.setState st idle)) :
    wordLegal v w = setStateLegal st idle := by
  rw [wordLegal, h]

theorem wordLegal_shift (v : Seq) {dir : Dir} {n : Nat} {tdi : TdiSource} {tdo : Option Nat} {exit : TapState} {w : Word64}
    (h : decodeCommand w = .ok (Instr.shiftCommand dir n tdi tdo exit)) : wordLegal v w = shiftLegal v n tdi tdo := by
  rw [wordLegal, h]
  cases dir <;> rfl

/-- Everything a legal word is: a legal SETSTATE, or a legal SHIFT command. -/
theorem wordLegal_cases {v : Seq} {w : Word64} (h : wordLegal v w = true) :
    (∃ st idle, decodeCommand w = .ok (.setState st idle) ∧ setStateLegal st idle = true) ∨
      ∃ dir n tdi tdo exit, decodeCommand w = .ok (Instr.shiftCommand dir n tdi tdo exit) ∧ shiftLegal v n tdi tdo = true := by
  cases hWord : decodeCommand w with
  | error e => rw [wordLegal, hWord] at h; cases h
  | ok i =>
    rcases decodeCommand_ok hWord with ⟨st, idle, rfl, -⟩ | ⟨dir, n, tdi, tdo, exit, rfl, -⟩
    · exact .inl ⟨st, idle, rfl, wordLegal_setState v st idle hWord ▸ h⟩
    · exact .inr ⟨dir, n, tdi, tdo, exit, rfl, wordLegal_shift v hWord ▸ h⟩

end Sys2Proof.Machine
end

section
/-! PROOF. The operations that only check and report: what the wrappers of an operation answer on each branch, the order of the checks
(60_exceptions.md R178), the key registers, the pads, and the values right after reset. -/

namespace Sys2Proof.Machine

open Sys2Proof

/-! ## The wrappers on each branch -/

theorem withinWidths_fit {ws : List (Nat × Nat)} (h : fitAll ws = true) (body : State → State) (s : State) :
    withinWidths ws body s = body s := if_pos h

theorem withinWidths_wide {ws : List (Nat × Nat)} (h : ¬ fitAll ws = true) (body : State → State) (s : State) :
    withinWidths ws body s = takeFault .valueTooWide s := if_neg h

theorem fitAll_one {v w : Nat} : fitAll [(v, w)] = true ↔ v < 2 ^ w := by simp [fitAll]

theorem fitAll_two {a b v w : Nat} : fitAll [(a, v), (b, w)] = true ↔ a < 2 ^ v ∧ b < 2 ^ w := by simp [fitAll]

theorem withSeq_dead {s : State} {q : Nat} (h : s.seqAt q = none) (body : Seq → State → State) :
    withSeq q body s = takeFault .badHandle s := by rw [withSeq, h]

theorem withSeq_live {s : State} {q : Nat} {v : Seq} (h : s.seqAt q = some v) (body : Seq → State → State) :
    withSeq q body s = body v s := by rw [withSeq, h]

theorem withOpenSeq_open {s : State} {q : Nat} {v : Seq} (h : s.seqAt q = some v) (hOpen : v.consumed = false)
    (body : Seq → State → State) : withOpenSeq q body s = body v s := by
  rw [withOpenSeq, withSeq_live h, hOpen]
  rfl

theorem withOpenSeq_consumed {s : State} {q : Nat} {v : Seq} (h : s.seqAt q = some v) (hConsumed : v.consumed = true)
    (body : Seq → State → State) : withOpenSeq q body s = takeFault .sequenceConsumed s := by
  rw [withOpenSeq, withSeq_live h, hConsumed]
  rfl

theorem operation_uninitialised {s : State} (hLive : s.fault = none) (hInit : s.port.init = false) (body : State → State) :
    operation body s = .next (takeFault .notInitialised s) := operation_poweredOn ⟨hInit, hLive⟩ body

theorem seqAt_wide {s : State} {q : Nat} (hRise : handlesRise 0 s.seqs = true) (h : 2 ^ 16 ≤ q) : s.seqAt q = none := by
  rw [Option.eq_none_iff_forall_ne_some]
  exact fun v hv => Nat.not_lt.mpr h (seqLookup_lt hRise hv)

/-! ## SHIFT -/

/-- Settles O12: each check ends the operation before the ones after it. -/
theorem shiftChecks : Obligations.ShiftChecks := by
  intro s dir n tdi capture exit hReady
  have hExec : exec (.shift dir n tdi capture exit) s = execShift dir n tdi capture exit s := rfl
  rw [hExec, execShift, operation_ready hReady]
  refine ⟨fun hState => ?_, fun hState hZero => ?_, fun hState hLong => ?_, fun bytes hState hPos hMax hBuf hShort => ?_⟩
  · rw [if_pos hState]
  · rw [if_neg (not_not_intro hState), if_pos hZero]
  · rw [if_neg (not_not_intro hState), if_neg (by omega), if_pos hLong]
  · have hBytes : tdi.longEnough n = false := by
      rw [hBuf]
      exact decide_eq_false (Nat.not_le.mpr hShort)
    rw [if_neg (not_not_intro hState), if_neg (by omega), if_neg (Nat.not_lt.mpr hMax), if_pos hBytes]

/-! ## The sequence handle -/

/-- Appending and running, which need an open sequence, check it first. -/
theorem exec_eq_withOpenSeq {q : Nat} {i : Instr} (h : (∃ st idle, i = .seqAddState q st idle) ∨
    (∃ flags n wi wo exit, i = .seqAddShift q flags n wi wo exit) ∨ i = .seqRun q) :
    ∃ body, ∀ s, exec i s = operation (withOpenSeq q body) s := by
  rcases h with ⟨st, idle, rfl⟩ | ⟨flags, n, wi, wo, exit, rfl⟩ | rfl
  all_goals exact ⟨_, fun _ => rfl⟩

/-- Every operation on a sequence checks its handle first. -/
theorem exec_eq_withSeq {q : Nat} {i : Instr} (h : (∃ st idle, i = .seqAddState q st idle) ∨
    (∃ flags n wi wo exit, i = .seqAddShift q flags n wi wo exit) ∨ i = .seqRun q ∨ i = .seqClear q ∨ i = .seqDelete q ∨
    (∃ h o bytes, i = .bufWrite q h o bytes) ∨ (∃ h o n, i = .bufRead q h o n)) :
    ∃ body, ∀ s, exec i s = operation (withSeq q body) s := by
  rcases h with ⟨st, idle, rfl⟩ | ⟨flags, n, wi, wo, exit, rfl⟩ | rfl | rfl | rfl | ⟨h, o, bytes, rfl⟩ | ⟨h, o, n, rfl⟩
  all_goals exact ⟨_, fun _ => rfl⟩

/-- Settles O20: the handle is looked up first (`exec_eq_withSeq`), then the consumed bit (`exec_eq_withOpenSeq`). -/
theorem handleChecks : Obligations.HandleChecks := by
  intro s q i hLive hKind
  obtain ⟨body, hExec⟩ := exec_eq_withSeq hKind
  have hDead : s.port.init = true → s.seqAt q = none → exec i s = .next (takeFault .badHandle s) := fun hInit hNone => by
    rw [hExec, operation_ready ⟨hInit, hLive⟩, withSeq_dead hNone]
  refine ⟨fun hInit => ?_, hDead, fun hInit hRise hWide => hDead hInit (seqAt_wide hRise hWide),
    fun v hInit hSeq hConsumed hOpen => ?_⟩
  · rw [hExec, operation_uninitialised hLive hInit]
  · obtain ⟨open', hExec'⟩ := exec_eq_withOpenSeq hOpen
    rw [hExec', operation_ready ⟨hInit, hLive⟩, withOpenSeq_consumed hSeq hConsumed]

/-! ## SEQ_ADD_SHIFT -/

/-- SEQ_ADD_SHIFT on an open sequence, past the width check of its flags. -/
theorem exec_seqAddShift_open {s : State} {q flags : Nat} {v : Seq} (hReady : s.ready) (hSeq : s.seqAt q = some v)
    (hOpen : v.consumed = false) (hFlags : flags < 2 ^ 8) (n : Nat) (wantTdi wantTdo : Bool) (exit : TapState) :
    exec (.seqAddShift q flags n wantTdi wantTdo exit) s = .next (
      if flagsLegal flags = false then takeFault .badFlags s
      else if n = 0 then raiseError .zeroLengthShift s
      else if n > Config.maxShiftBits then takeFault .shiftTooLong s
      else if v.pool.length + wantCount wantTdi wantTdo > Config.handleCount then takeFault .resourceExhausted s
      else
        complete (.bufHandles (if wantTdi then some v.pool.length else none) (v.tdoOf wantTdi wantTdo))
          (s.setSeq q (v.addShift (flagsDir flags) (flagsFill flags) n wantTdi wantTdo exit))) := by
  have hExec : exec (.seqAddShift q flags n wantTdi wantTdo exit) s = execSeqAddShift q flags n wantTdi wantTdo exit s := rfl
  rw [hExec, execSeqAddShift, operation_ready hReady, withOpenSeq_open hSeq hOpen, withinWidths_fit (fitAll_one.mpr hFlags)]

theorem flagsLegal_of_lt {flags : Nat} (h : flags < 4) : flagsLegal flags = true := decide_eq_true h

theorem flagsLegal_of_ge {flags : Nat} (h : 4 ≤ flags) : flagsLegal flags = false := decide_eq_false (Nat.not_lt.mpr h)

/-- Settles O24: each check of R112 ends the operation before the ones after it. -/
theorem seqAddShiftChecks : Obligations.SeqAddShiftChecks := by
  intro s q flags n v wantTdi wantTdo exit hReady hSeq hOpen
  have hPast := fun hFlags : flags < 2 ^ 8 => exec_seqAddShift_open hReady hSeq hOpen hFlags n wantTdi wantTdo exit
  refine ⟨fun hWide => ?wide, fun hBad hFits => ?flags, fun hFlags hZero => ?zero, fun hFlags hLong => ?long,
    fun hFlags hPos hMax hFull => ?full⟩
  case wide =>
    have hExec : exec (.seqAddShift q flags n wantTdi wantTdo exit) s = execSeqAddShift q flags n wantTdi wantTdo exit s := rfl
    rw [hExec, execSeqAddShift, operation_ready hReady, withOpenSeq_open hSeq hOpen, withinWidths_wide]
    exact fun hFits => Nat.not_lt.mpr hWide (fitAll_one.mp hFits)
  case flags => rw [hPast hFits, if_pos (flagsLegal_of_ge hBad)]
  case zero =>
    rw [hPast (by omega), flagsLegal_of_lt hFlags, if_neg (by decide), if_pos hZero]
    rfl
  case long =>
    have hOver : n > Config.maxShiftBits := by unfold Config.maxShiftBits; omega
    rw [hPast (by omega), flagsLegal_of_lt hFlags, if_neg (by decide), if_neg (by omega), if_pos hOver]
  case full =>
    have hWithin : ¬ n > Config.maxShiftBits := by unfold Config.maxShiftBits; omega
    have hOver : v.pool.length + wantCount wantTdi wantTdo > Config.handleCount := by
      unfold wantCount Config.handleCount
      omega
    rw [hPast (by omega), flagsLegal_of_lt hFlags, if_neg (by decide), if_neg (by omega), if_neg hWithin, if_pos hOver]

/-! ## SET_PADS -/

theorem toNat_ofNat_lt {w v : Nat} (h : v < 2 ^ w) : (BitVec.ofNat w v).toNat = v := by
  rw [BitVec.toNat_ofNat, Nat.mod_eq_of_lt h]

/-- Settles O35: the four registers take the counts, which fit them. -/
theorem setPads : Obligations.SetPads := by
  intro s a b c d hReady
  have hExec : exec (.setPads a b c d) s = execSetPads a b c d s := rfl
  have hFits : fitAll [(a, 16), (b, 16), (c, 16), (d, 16)] = true ↔ a < 2 ^ 16 ∧ b < 2 ^ 16 ∧ c < 2 ^ 16 ∧ d < 2 ^ 16 := by
    simp [fitAll]
  rw [hExec, execSetPads, operation_ready hReady]
  refine ⟨fun ha hb hc hd => ?_, fun hWide => ?_⟩
  · rw [withinWidths_fit (hFits.mpr ⟨ha, hb, hc, hd⟩)]
    exact ⟨complete .nothing (s.withPort (s.port.setPads a b c d)), rfl, rfl, toNat_ofNat_lt ha, toNat_ofNat_lt hb,
      toNat_ofNat_lt hc, toNat_ofNat_lt hd, rfl, rfl, rfl⟩
  · rw [withinWidths_wide fun h => ?_]
    obtain ⟨ha, hb, hc, hd⟩ := hFits.mp h
    omega

/-! ## The target of a protocol operation -/

theorem withTarget_none {s : State} (h : s.port.family = none ∨ s.port.irLen = 0#8) (body : Family → Nat → State → State) :
    withTarget body s = raiseError .noTarget s := by
  rcases withTarget_spec body s with ⟨f, hFamily, hLength, -⟩ | ⟨-, hAnswer⟩ | ⟨hFamily, hLength, -⟩
  · rcases h with h | h
    · rw [h] at hFamily; cases hFamily
    · exact absurd h hLength
  · exact hAnswer
  · rcases h with h | h
    · exact absurd h hFamily
    · exact absurd h hLength

theorem withTarget_segments {s : State} (hFamily : s.port.family ≠ none) (hLength : s.port.irLen ≠ 0#8)
    (hSegments : s.port.segments ≠ 1#8) (body : Family → Nat → State → State) :
    withTarget body s = raiseError .multiSegment s := by
  rcases withTarget_spec body s with ⟨_, -, -, h, -⟩ | ⟨h, -⟩ | ⟨-, -, -, hAnswer⟩
  · exact absurd h hSegments
  · exact absurd h (by simp [hFamily, hLength])
  · exact hAnswer

theorem withTarget_some {s : State} {f : Family} (hFamily : s.port.family = some f) (hLength : s.port.irLen ≠ 0#8)
    (hSegments : s.port.segments = 1#8) (body : Family → Nat → State → State) :
    withTarget body s = body f s.port.irLen.toNat s := by
  simp only [withTarget, hFamily, hLength, hSegments, if_false, ne_eq, not_true_eq_false]

theorem withKey_missing {s : State} (h : s.key.loaded = false) (body : State → State) :
    withKey body s = takeFault .keyNotLoaded s := by
  rw [withKey, h]
  rfl

theorem withKey_loaded {s : State} (h : s.key.loaded = true) (body : State → State) : withKey body s = body s := by
  rw [withKey, h]
  rfl

/-- Settles O37: each protocol operation is its body behind `protocolOperation`, and the two BBRAM ones check the key before
everything else of their bodies. -/
theorem protocolChecks : Obligations.ProtocolChecks := by
  intro s i hReady hKind
  obtain ⟨body, hExec, hKey⟩ : ∃ body, exec i s = protocolOperation body s ∧
      (i = .bbramProgram ∨ i = .bbramVerify → ∃ rest : Family → Nat → State → State, body = fun f len => withKey (rest f len)) := by
    rcases hKind with rfl | rfl | rfl | ⟨row, bit, page, red, rfl⟩ | ⟨row, page, red, rfl⟩
    case inr.inl => exact ⟨_, rfl, fun _ => ⟨_, rfl⟩⟩
    case inr.inr.inl => exact ⟨_, rfl, fun _ => ⟨_, rfl⟩⟩
    all_goals exact ⟨_, rfl, fun h => by rcases h with h | h <;> cases h⟩
  rw [hExec, protocolOperation_ready hReady]
  refine ⟨fun hNone => ?_, fun hFamily hLength hSegments => ?_, fun hFamily hLength hSegments hMissing hBbram => ?_⟩
  · rw [withTarget_none (s := s.withPseq Seq.empty) hNone]
    rfl
  · rw [withTarget_segments (s := s.withPseq Seq.empty) hFamily hLength hSegments]
    rfl
  · obtain ⟨f, hSome⟩ := Option.ne_none_iff_exists'.mp hFamily
    obtain ⟨rest, rfl⟩ := hKey hBbram
    rw [withTarget_some (s := s.withPseq Seq.empty) hSome hLength hSegments, withKey_missing (s := s.withPseq Seq.empty) hMissing]

/-! ## The key -/

@[simp] theorem complete_key (v : Returned) (s : State) : (complete v s).key = s.key := rfl

theorem unreport_withKey (s : State) (k : KeyRegs) : unreport s ((complete .nothing (s.withKey k)).withKey s.key) = s := by
  cases s
  rfl

theorem exec_keyLoad_fit {s : State} {kb : List Byte} {crcValid : Bool} {crc : Nat} (hReady : s.ready)
    (hCrc : crcValid = true → crc < 2 ^ 32) :
    exec (.keyLoad kb crcValid crc) s = .next (
      if kb.length ≠ 32 then takeFault .badArgument s
      else complete .nothing (s.withKey (loadedKey kb crcValid crc))) := by
  have hExec : exec (.keyLoad kb crcValid crc) s = execKeyLoad kb crcValid crc s := rfl
  have hFits : (if crcValid = true then crc else 0) < 2 ^ 32 := by
    split
    next hValid => exact hCrc hValid
    next => decide
  rw [hExec, execKeyLoad, operation_ready hReady, withinWidths_fit (fitAll_one.mpr hFits)]

theorem loadedKey_crc {kb : List Byte} {crcValid : Bool} {crc : Nat} (h : crcValid = true → crc < 2 ^ 32) :
    (loadedKey kb crcValid crc).crc.toNat = if crcValid then crc else 0 := by
  cases crcValid with
  | false => rfl
  | true => exact toNat_ofNat_lt (h rfl)

theorem loadedKey_byte (kb : List Byte) (crcValid : Bool) (crc : Nat) (j : Fin 32) :
    (loadedKey kb crcValid crc).bytes[j.val] = kb.getD j.val 0#8 := by
  simp only [loadedKey, keyOfBytes, Vector.getElem_ofFn]

/-- Settles O43: KEY_READBACK only completes, and KEY_LOAD writes `loadedKey` when the key has its length. -/
theorem keyOperations : Obligations.KeyOperations := by
  refine ⟨fun s hReady => ⟨_, operation_ready hReady _, rfl, rfl, rfl⟩, fun s kb crc hReady hWide => ?_,
    fun s kb crcValid crc hReady hCrc => ⟨fun hLength => ?_, fun hLength => ?_⟩⟩
  · have hExec : exec (.keyLoad kb true crc) s = execKeyLoad kb true crc s := rfl
    rw [hExec, execKeyLoad, operation_ready hReady, withinWidths_wide]
    exact fun hFits => Nat.not_lt.mpr hWide (fitAll_one.mp hFits)
  · rw [exec_keyLoad_fit hReady hCrc, if_neg (not_not_intro hLength)]
    refine ⟨complete .nothing (s.withKey (loadedKey kb crcValid crc)), rfl, ?_⟩
    rw [complete_key, State.withKey_key]
    exact ⟨loadedKey_byte kb crcValid crc, rfl, loadedKey_crc hCrc, rfl, rfl, rfl, unreport_withKey s _⟩
  · rw [exec_keyLoad_fit hReady hCrc, if_pos hLength]

/-! ## A faulted block -/

theorem exec_faulted {s : State} {r : FaultReason} (h : s.fault = some r) (i : Instr) : exec i s = .next (stuck s) := by
  by_cases hInit : ∃ m, i = .portInit m
  · obtain ⟨m, rfl⟩ := hInit
    exact unlessFaulted_faulted h fun s =>
      if pinMapLegal Config.gpioCount m then complete .nothing (portInitEffect m s) else raiseError .badPinAssignment s
  · obtain ⟨body, hExec⟩ := exec_eq_operation fun m hm => hInit ⟨m, hm⟩
    rw [hExec, operation_faulted h]

theorem step_faulted {s : State} {r : FaultReason} (h : s.fault = some r) : step s = .next (stuckStep s) := by
  rw [step, h]
  rfl

/-- Settles O47: every instruction and every step asks `FAULT` first. -/
theorem faultIsSticky : Obligations.FaultIsSticky :=
  ⟨fun _ i _ hFault => exec_faulted hFault i, fun _ _ hFault => step_faulted hFault⟩

/-! ## The fetch of a step -/

theorem activeRun_none {s : State} (h : s.exec.seq = none ∨ s.port.init = false) : s.activeRun = none := by
  rcases activeRun_spec s with ⟨hInit, hRun⟩ | ⟨-, hRun⟩
  · rcases h with h | h
    · rw [hRun, h]
    · rw [h] at hInit; cases hInit
  · exact hRun

theorem fetch_host {s : State} {record : List Byte} {rest : List (List Byte)} (hRun : s.activeRun = none)
    (hQueue : s.hostQueue = record :: rest) : fetch s = .host record rest := by
  rw [fetch, hRun, hQueue]

theorem fetch_command {s : State} {q : Nat} {v : Seq} {w : Word64} (hRun : s.activeRun = some q) (hSeq : s.seqAt q = some v)
    (hWord : v.cmds[s.exec.pc]? = some w) : fetch s = .command w := by
  simp only [fetch, hRun, hSeq, hWord]

theorem step_host {s : State} {record left : List Byte} {rest : List (List Byte)} {i : Instr} (hLive : s.fault = none)
    (hFetch : fetch s = .host record rest) (hDecode : decodeHostOp record = .ok (i, left)) :
    step s = exec i (s.withHostQueue rest) := by
  simp only [step, hLive, hFetch, hDecode, Option.isSome_none, Bool.false_eq_true, if_false]

theorem step_refused {s : State} {record : List Byte} {rest : List (List Byte)} {e : DecodeError} (hLive : s.fault = none)
    (hFetch : fetch s = .host record rest) (hDecode : decodeHostOp record = .error e) :
    step s = .next (refuseRecord record e (s.withHostQueue rest)) := by
  simp only [step, hLive, hFetch, hDecode, Option.isSome_none, Bool.false_eq_true, if_false]

theorem step_command {s : State} {w : Word64} {i : Instr} (hLive : s.fault = none) (hFetch : fetch s = .command w)
    (hDecode : decodeCommand w = .ok i) : step s = advanceRun (exec i s) := by
  simp only [step, hLive, hFetch, hDecode, Option.isSome_none, Bool.false_eq_true, if_false]

theorem step_badWord {s : State} {w : Word64} {e : DecodeError} (hLive : s.fault = none) (hFetch : fetch s = .command w)
    (hDecode : decodeCommand w = .error e) : step s = .next (takeFault .badCommand s) := by
  simp only [step, hLive, hFetch, hDecode, Option.isSome_none, Bool.false_eq_true, if_false]

/-- Settles O6: the two fetches of `fetch_host` and `fetch_command`, and what the step does with each. -/
theorem stepRunsDecoded : Obligations.StepRunsDecoded := by
  refine ⟨fun s record left rest i hLive hNoRun hQueue hDecode => ?_, fun s q v w i hReady hRun hSeq hWord hDecode => ?_⟩
  · exact step_host hLive (fetch_host (activeRun_none hNoRun) hQueue) hDecode
  · obtain ⟨t, hExec⟩ := exec_next i s
    have hActive : s.activeRun = some q := (activeRun_ready hReady).trans hRun
    refine ⟨t, hExec, ?_⟩
    rw [step_command hReady.2 (fetch_command hActive hSeq hWord) hDecode, hExec]
    rfl

/-! ## Reserved opcodes -/

/-- The opcodes of 30_encoding.md R77. -/
def hostOpcodes : List Nat :=
  [0x01, 0x02, 0x03, 0x04, 0x10, 0x11, 0x12, 0x13, 0x14, 0x15, 0x16, 0x17, 0x20, 0x21, 0x22, 0x23, 0x30, 0x31, 0x32, 0x40, 0x41,
    0x42, 0x43]

/-- The decoder of each group of opcodes refuses one that is not in the table. -/
theorem decodeHostOp_reserved {op : Byte} (h : op.toNat ∉ hostOpcodes) (bs : List Byte) :
    decodeHostOp (op :: bs) = .error (.unknownOp (some op)) := by
  simp only [hostOpcodes, List.mem_cons, List.not_mem_nil, or_false, not_or] at h
  rw [decodeHostOp]
  split
  · unfold decodePinOp
    split
    case h_5 => rfl
    all_goals simp_all
  · split
    · unfold decodeSeqOp
      split
      case h_9 => rfl
      all_goals simp_all
    · unfold decodeProtocolOp
      split
      case h_12 => rfl
      all_goals simp_all

/-- Settles O5: the decoder refuses the opcode (`decodeHostOp_reserved`), and that refusal asks nothing else. -/
theorem reservedOpcodesFault : Obligations.ReservedOpcodesFault := by
  intro s op bs rest hLive hNoRun hQueue hReserved
  exact step_refused hLive (fetch_host (activeRun_none hNoRun) hQueue) (decodeHostOp_reserved hReserved bs)

/-! ## Reset -/

/-- Settles O52: each register of the reset state is written out. -/
theorem resetValues : Obligations.ResetValues := by
  refine ⟨rfl, rfl, rfl, rfl, rfl, rfl, rfl, rfl, rfl, rfl, rfl, rfl, rfl, rfl, rfl, rfl, rfl, rfl, rfl, fun k => ?_, rfl, rfl⟩
  exact ⟨Vector.getElem_replicate _, Vector.getElem_replicate _⟩

/-- The seven lines of the pin map of reset are distinct and below every possible `GPIO_COUNT`. -/
theorem pinMapUsable_reset : State.reset.pinMapUsable := fun _ =>
  pinMapLegal_iff.mpr ⟨by decide, fun line hLine => by
    have hSmall : line < 7 := (by decide : ∀ l ∈ State.reset.port.pinmap.lines, l < 7) line hLine
    unfold Config.gpioCount
    omega⟩

/-- Settles O53: at reset the tables are empty, no run is in progress, and the registers of the others hold their reset values. -/
theorem invariantsAtReset : Obligations.InvariantsAtReset := by
  refine ⟨rfl, rfl, fun _ => ⟨rfl, rfl⟩, pinMapUsable_reset, .inl ⟨rfl, rfl, rfl, rfl⟩, ⟨rfl, Nat.zero_le _, fun k n hNode => ?_⟩,
    fun q hRun => ?_, ⟨nofun, nofun⟩, .inl (by decide)⟩
  · cases hNode
  · cases hRun

end Sys2Proof.Machine
end

section
/-! PROOF. The builder operations past their checks (42_sequence_builder.md R110 to R117): each writes one entry of the sequence table,
and the table then reads as before everywhere else. -/

namespace Sys2Proof.Machine

open Sys2Proof

/-! ## One entry of the table -/

theorem State.setSeq_seqAt {s : State} (hRise : handlesRise 0 s.seqs = true) (q k : Nat) (v : Seq) :
    (s.setSeq q v).seqAt k = if k = q then some v else s.seqAt k := seqLookup_insert hRise q k v

theorem State.setSeq_seqAt_same {s : State} (hRise : handlesRise 0 s.seqs = true) (q : Nat) (v : Seq) :
    (s.setSeq q v).seqAt q = some v := by rw [State.setSeq_seqAt hRise, if_pos rfl]

theorem State.setSeq_seqAt_other {s : State} (hRise : handlesRise 0 s.seqs = true) {q k : Nat} (h : k ≠ q) (v : Seq) :
    (s.setSeq q v).seqAt k = s.seqAt k := by rw [State.setSeq_seqAt hRise, if_neg h]

@[simp] theorem complete_seqAt (r : Returned) (s : State) (q : Nat) : (complete r s).seqAt q = s.seqAt q := rfl

/-- Writing the table and completing leaves everything but the table and the outcome. -/
theorem unreport_withSeqs (r : Returned) (s : State) (l : List (Nat × Seq)) :
    unreport s ((complete r (s.withSeqs l)).withSeqs s.seqs) = s := by
  cases s
  rfl

/-- The buffers of a live sequence are in canonical form when all are. -/
theorem memoryWf_pool {s : State} {q : Nat} {v : Seq} (h : s.memoryWf = true) (hSeq : s.seqAt q = some v) :
    v.pool.all Memory.wf = true := by
  simp only [State.memoryWf, Bool.and_eq_true, List.all_eq_true (l := s.seqs)] at h
  exact h.1 _ (seqLookup_mem hSeq)

/-! ## SEQ_CREATE -/

theorem exec_seqCreate_fit {s : State} {node : Nat} (hReady : s.ready) (hNode : node < 2 ^ 8) :
    exec (.seqCreate node) s = .next (
      if firstFree s.seqs 0 < Config.handleCount then
        complete (.handle (firstFree s.seqs 0)) (s.setSeq (firstFree s.seqs 0) { Seq.empty with node := BitVec.ofNat 8 node })
      else takeFault .resourceExhausted s) := by
  have hExec : exec (.seqCreate node) s = execSeqCreate node s := rfl
  rw [hExec, execSeqCreate, operation_ready hReady, withinWidths_fit (fitAll_one.mpr hNode)]

/-- Settles O21: the search for a free handle answers the lowest one (`firstFree_spec`), which is no handle when all are in use. -/
theorem seqCreate : Obligations.SeqCreate := by
  intro s node hReady hRise
  obtain ⟨-, hFree, hBelow⟩ := firstFree_spec hRise
  refine ⟨fun hWide => ?_, fun hNode hSome => ?_, fun hNode hAll => ?_⟩
  · have hExec : exec (.seqCreate node) s = execSeqCreate node s := rfl
    rw [hExec, execSeqCreate, operation_ready hReady, withinWidths_wide]
    exact fun hFits => Nat.not_lt.mpr hWide (fitAll_one.mp hFits)
  · obtain ⟨k, hk, hNone⟩ := hSome
    have hLow : firstFree s.seqs 0 < Config.handleCount := by
      by_contra hFull
      have hUsed := hBelow k (Nat.zero_le k) (lt_of_lt_of_le hk (Nat.not_lt.mp hFull))
      have hNone' : seqLookup s.seqs k = none := hNone
      rw [hNone'] at hUsed
      cases hUsed
    rw [exec_seqCreate_fit hReady hNode, if_pos hLow]
    refine ⟨complete (.handle (firstFree s.seqs 0))
        (s.setSeq (firstFree s.seqs 0) { Seq.empty with node := BitVec.ofNat 8 node }),
      firstFree s.seqs 0, rfl, hLow, hFree, fun j hj hNone' => ?_, rfl, rfl, State.setSeq_seqAt_same hRise _ _,
      fun j hj => State.setSeq_seqAt_other hRise hj _, unreport_withSeqs ..⟩
    have hUsed := hBelow j (Nat.zero_le j) hj
    rw [show seqLookup s.seqs j = none from hNone'] at hUsed
    cases hUsed
  · have hHigh : ¬ firstFree s.seqs 0 < Config.handleCount := fun hLow => hAll _ hLow hFree
    rw [exec_seqCreate_fit hReady hNode, if_neg hHigh]

/-! ## The values of the appended words -/

theorem toNat_append_eq {m k : Nat} (x : BitVec m) (y : BitVec k) : (x ++ y).toNat = x.toNat * 2 ^ k + y.toNat := by
  rw [BitVec.toNat_append, ← Nat.shiftLeft_add_eq_or_of_lt y.isLt, Nat.shiftLeft_eq]

theorem encodeSetState_toNat {st : TapState} {idle : Nat} (h : idle < 2 ^ 32) :
    (encodeSetState st idle).toNat = idle * 2 ^ 8 + st.code.toNat * 2 := by
  simp only [encodeSetState, toNat_append_eq, BitVec.toNat_zero, toNat_ofNat_lt h]
  omega

theorem encodeShift_toNat {dir : Dir} {n : Nat} {tdi : TdiSource} {tdo : Option Nat} (hCount : n < 2 ^ 23)
    (hTdo : tdo.getD 0 < 2 ^ 16) (exit : TapState) :
    (encodeShift dir n tdi tdo exit).toNat = tdo.getD 0 * 2 ^ 48 + tdi.handleBits.toNat * 2 ^ 32 + n * 2 ^ 9 +
      exit.code.toNat * 2 ^ 5 + tdi.fillBit.toNat * 2 ^ 4 + tdo.isSome.toNat * 2 ^ 3 + tdi.present.toNat * 2 ^ 2 +
      dir.bit.toNat * 2 + 1 := by
  simp only [encodeShift, toNat_append_eq, BitVec.toNat_ofBool, toNat_ofNat_lt hCount, toNat_ofNat_lt hTdo]
  rw [show (1#1 : BitVec 1).toNat = 1 from rfl]
  omega

/-! ## SEQ_ADD_STATE -/

theorem exec_seqAddState_open {s : State} {q : Nat} {v : Seq} (hReady : s.ready) (hSeq : s.seqAt q = some v)
    (hOpen : v.consumed = false) {idle : Nat} (hIdle : idle < 2 ^ 32) (st : TapState) :
    exec (.seqAddState q st idle) s = .next (
      if idle > 0 ∧ st.stable = false then raiseError .badIdleOnUnstableState s
      else complete .nothing (s.setSeq q (v.addState st idle))) := by
  have hExec : exec (.seqAddState q st idle) s = execSeqAddState q st idle s := rfl
  rw [hExec, execSeqAddState, operation_ready hReady, withOpenSeq_open hSeq hOpen, withinWidths_fit (fitAll_one.mpr hIdle)]

/-- Settles O22: the appended word is `encodeSetState`, whose value is that of R111 (`encodeSetState_toNat`). -/
theorem seqAddState : Obligations.SeqAddState := by
  intro s q v st idle hReady hRise hSeq hOpen
  refine ⟨fun hWide => ?_, fun hIdle hStable => ?_, fun hIdle hPos hUnstable => ?_⟩
  · have hExec : exec (.seqAddState q st idle) s = execSeqAddState q st idle s := rfl
    rw [hExec, execSeqAddState, operation_ready hReady, withOpenSeq_open hSeq hOpen, withinWidths_wide]
    exact fun hFits => Nat.not_lt.mpr hWide (fitAll_one.mp hFits)
  · have hAccepted : ¬ (idle > 0 ∧ st.stable = false) := fun ⟨hPos, hUnstable⟩ => by
      rcases hStable with hZero | hStable
      · omega
      · rw [hUnstable] at hStable; cases hStable
    rw [exec_seqAddState_open hReady hSeq hOpen hIdle, if_neg hAccepted]
    exact ⟨complete .nothing (s.setSeq q (v.addState st idle)), encodeSetState st idle, rfl, encodeSetState_toNat hIdle,
      State.setSeq_seqAt_same hRise _ _, fun k hk => State.setSeq_seqAt_other hRise hk _, rfl, rfl, unreport_withSeqs ..⟩
  · rw [exec_seqAddState_open hReady hSeq hOpen hIdle, if_pos ⟨hPos, hUnstable⟩]
    rfl

/-! ## SEQ_ADD_SHIFT -/

theorem exec_seqAddShift_accepted {s : State} {q flags n : Nat} {v : Seq} {wantTdi wantTdo : Bool} (hReady : s.ready)
    (hSeq : s.seqAt q = some v) (hOpen : v.consumed = false) (hFlags : flags < 4) (hPos : 1 ≤ n) (hMax : n < 2 ^ 23)
    (hRoom : v.pool.length + wantTdi.toNat + wantTdo.toNat ≤ 65536) (exit : TapState) :
    exec (.seqAddShift q flags n wantTdi wantTdo exit) s = .next (
      complete (.bufHandles (if wantTdi then some v.pool.length else none) (v.tdoOf wantTdi wantTdo))
        (s.setSeq q (v.addShift (flagsDir flags) (flagsFill flags) n wantTdi wantTdo exit))) := by
  have hWithin : ¬ n > Config.maxShiftBits := by unfold Config.maxShiftBits; omega
  have hFit : ¬ v.pool.length + wantCount wantTdi wantTdo > Config.handleCount := by
    unfold wantCount Config.handleCount
    omega
  rw [exec_seqAddShift_open hReady hSeq hOpen (by omega), flagsLegal_of_lt hFlags, if_neg (by decide), if_neg (by omega),
    if_neg hWithin, if_neg hFit]

theorem flags_bits {flags : Nat} (h : flags < 4) :
    (flagsDir flags).bit.toNat = flags % 2 ∧ (flagsFill flags).toNat = flags / 2 := by
  revert flags
  decide

/-- The value of the word SEQ_ADD_SHIFT appends (42_sequence_builder.md R112). -/
theorem addShift_word_toNat {v : Seq} {flags n : Nat} {wantTdi wantTdo : Bool} (hFlags : flags < 4) (hMax : n < 2 ^ 23)
    (hRoom : v.pool.length + wantTdi.toNat + wantTdo.toNat ≤ 65536) (exit : TapState) :
    (encodeShift (flagsDir flags) n (v.tdiOf wantTdi (flagsFill flags)) (v.tdoOf wantTdi wantTdo) exit).toNat =
      (if wantTdo then (v.pool.length + wantTdi.toNat) * 2 ^ 48 else 0) + (if wantTdi then v.pool.length * 2 ^ 32 else 0) +
        n * 2 ^ 9 + exit.code.toNat * 2 ^ 5 + (if wantTdi then 0 else (flags / 2) * 2 ^ 4) + wantTdo.toNat * 2 ^ 3 +
        wantTdi.toNat * 2 ^ 2 + (flags % 2) * 2 + 1 := by
  obtain ⟨hDir, hFill⟩ := flags_bits hFlags
  have hTdo : (v.tdoOf wantTdi wantTdo).getD 0 < 2 ^ 16 := by
    cases wantTdo
    · exact Nat.two_pow_pos 16
    · simp only [Bool.toNat_true] at hRoom
      show v.pool.length + wantTdi.toNat < 2 ^ 16
      omega
  rw [encodeShift_toNat hMax hTdo, hDir]
  cases wantTdi with
  | true =>
    have hHandle : (BitVec.ofNat 16 v.pool.length).toNat = v.pool.length :=
      toNat_ofNat_lt (by simp only [Bool.toNat_true] at hRoom; omega)
    cases wantTdo <;>
      simp [Seq.tdiOf, Seq.tdoOf, TdiSource.handleBits, TdiSource.fillBit, TdiSource.present, -BitVec.toNat_ofNat, hHandle]
  | false =>
    cases wantTdo <;> simp [Seq.tdiOf, Seq.tdoOf, TdiSource.handleBits, TdiSource.fillBit, TdiSource.present, hFill]

theorem addShift_pool_old {v : Seq} {dir : Dir} {fill : Bool} {n : Nat} {wantTdi wantTdo : Bool} {exit : TapState} {k : Nat}
    (hOld : k < v.pool.length) : (v.addShift dir fill n wantTdi wantTdo exit).pool[k]? = v.pool[k]? :=
  List.getElem?_append_left hOld

theorem addShift_pool_new {v : Seq} {dir : Dir} {fill : Bool} {n : Nat} {wantTdi wantTdo : Bool} {exit : TapState} {k : Nat} {m : Memory}
    (hNew : v.pool.length ≤ k) (hMem : (v.addShift dir fill n wantTdi wantTdo exit).pool[k]? = some m) :
    m = newBuffer (bytesFor n) := by
  have hLater : (List.replicate (wantCount wantTdi wantTdo) (newBuffer (bytesFor n)))[k - v.pool.length]? = some m :=
    (List.getElem?_append_right hNew).symm.trans hMem
  exact List.eq_of_mem_replicate (List.mem_of_getElem? hLater)

/-- Settles O23: the appended word is `encodeShift`, whose value is that of R112 (`addShift_word_toNat`), and the pool grows by new
buffers at its end. -/
theorem seqAddShift : Obligations.SeqAddShift := by
  intro s q flags n v wantTdi wantTdo exit hReady hRise hSeq hOpen hFlags hPos hMax hRoom
  refine ⟨complete (.bufHandles (if wantTdi then some v.pool.length else none) (v.tdoOf wantTdi wantTdo))
      (s.setSeq q (v.addShift (flagsDir flags) (flagsFill flags) n wantTdi wantTdo exit)),
    encodeShift (flagsDir flags) n (v.tdiOf wantTdi (flagsFill flags)) (v.tdoOf wantTdi wantTdo) exit,
    v.addShift (flagsDir flags) (flagsFill flags) n wantTdi wantTdo exit,
    exec_seqAddShift_accepted hReady hSeq hOpen hFlags hPos hMax hRoom exit, State.setSeq_seqAt_same hRise _ _, rfl,
    addShift_word_toNat hFlags hMax hRoom exit, ?_, fun k hk => addShift_pool_old hk, fun k m hk hMem => ?_, rfl,
    fun k hk => State.setSeq_seqAt_other hRise hk _, rfl, unreport_withSeqs ..⟩
  · rw [Seq.addShift, List.length_append, List.length_replicate, wantCount, Nat.add_assoc]
  · rw [addShift_pool_new hk hMem]
    exact ⟨rfl, fun _ => rfl⟩

/-! ## SEQ_CLEAR and SEQ_DELETE -/

/-- Settles O25: one entry is replaced by an emptied record, or erased. -/
theorem seqClearDelete : Obligations.SeqClearDelete := by
  intro s q v hReady hRise hSeq
  have hErase := seqLookup_erase hRise q
  refine ⟨⟨complete .nothing (s.setSeq q { v with cmds := [], pool := [], consumed := false }), ?_,
    State.setSeq_seqAt_same hRise _ _, fun k hk => State.setSeq_seqAt_other hRise hk _, rfl, rfl, unreport_withSeqs ..⟩,
    ⟨complete .nothing (s.withSeqs (seqErase s.seqs q)), ?_, ?_, fun k hk => ?_, rfl, rfl, unreport_withSeqs ..⟩⟩
  · have hExec : exec (.seqClear q) s = execSeqClear q s := rfl
    rw [hExec, execSeqClear, operation_ready hReady, withSeq_live hSeq]
  · have hExec : exec (.seqDelete q) s = execSeqDelete q s := rfl
    rw [hExec, execSeqDelete, operation_ready hReady, withSeq_live hSeq]
  · exact (hErase q).trans (if_pos rfl)
  · exact (hErase k).trans (if_neg hk)

/-! ## BUF_WRITE and BUF_READ -/

theorem memWrite_inside {pool : List Memory} {h o : Nat} {bs : List Byte} {m : Memory} (hMem : pool[h]? = some m)
    (hIn : o + bs.length ≤ m.size) : memWrite pool h o bs = some (pool.set h (m.setBytes o bs)) := by
  rw [memWrite, hMem]
  exact if_pos hIn

theorem memWrite_outside {pool : List Memory} {h o : Nat} {bs : List Byte}
    (hOut : ∀ m, pool[h]? = some m → m.size < o + bs.length) : memWrite pool h o bs = none := by
  rw [Option.eq_none_iff_forall_ne_some]
  intro pool' hWrite
  obtain ⟨m, hMem, hIn, -⟩ := memWrite_spec hWrite
  exact Nat.not_lt.mpr hIn (hOut m hMem)

theorem memRead_inside {pool : List Memory} {h o n : Nat} {m : Memory} (hMem : pool[h]? = some m) (hIn : o + n ≤ m.size) :
    memRead pool h o n = some (m.slice o n) := by
  rw [memRead, hMem]
  exact if_pos hIn

theorem memRead_outside {pool : List Memory} {h o n : Nat} (hOut : ∀ m, pool[h]? = some m → m.size < o + n) :
    memRead pool h o n = none := by
  rw [Option.eq_none_iff_forall_ne_some]
  intro bs hRead
  obtain ⟨m, hMem, hIn, -⟩ := memRead_spec hRead
  exact Nat.not_lt.mpr hIn (hOut m hMem)

/-- What a pool reads after bytes were written to one buffer of it. -/
theorem pool_set_setBytes_byteAt {pool : List Memory} {h o : Nat} {bs : List Byte} {m : Memory} (hWf : pool.all Memory.wf = true)
    (hMem : pool[h]? = some m) (hIn : o + bs.length ≤ m.size) {k : Nat} {x : Memory} (hx : pool[k]? = some x) :
    ∃ y, (pool.set h (m.setBytes o bs))[k]? = some y ∧ y.size = x.size ∧
      ∀ a, y.byteAt a = if k = h ∧ o ≤ a ∧ a < o + bs.length then bs.getD (a - o) 0#8 else x.byteAt a := by
  by_cases hk : k = h
  · subst hk
    obtain rfl : m = x := Option.some.inj (hMem.symm.trans hx)
    have hBound : k < pool.length := (List.getElem?_eq_some_iff.mp hMem).1
    refine ⟨m.setBytes o bs, List.getElem?_set_self hBound, Memory.setBytes_size .., fun a => ?_⟩
    rw [Memory.setBytes_byteAt (List.all_eq_true.mp hWf m (List.mem_of_getElem? hMem)) hIn]
    simp only [true_and]
  · exact ⟨x, (List.getElem?_set_ne (Ne.symm hk)).trans hx, rfl, fun a => (if_neg fun h => hk h.1).symm⟩

/-- Settles O26: the written pool is one buffer's bytes replaced (`pool_set_setBytes_byteAt`). -/
theorem bufWrite : Obligations.BufWrite := by
  intro s q h o bytes v hReady hRise hWf hSeq
  have hExec : exec (.bufWrite q h o bytes) s = execBufWrite q h o bytes s := rfl
  rw [hExec, execBufWrite, operation_ready hReady, withSeq_live hSeq]
  refine ⟨fun hWide => ?_, fun hHandle m hMem hIn => ?_, fun hHandle hOut => ?_⟩
  · rw [withinWidths_wide]
    exact fun hFits => Nat.not_lt.mpr hWide (fitAll_one.mp hFits)
  · rw [withinWidths_fit (fitAll_one.mpr hHandle), memWrite_inside hMem hIn]
    exact ⟨complete .nothing (s.setSeq q { v with pool := v.pool.set h (m.setBytes o bytes) }),
      { v with pool := v.pool.set h (m.setBytes o bytes) }, rfl, State.setSeq_seqAt_same hRise _ _, rfl, List.length_set,
      fun k x hx => pool_set_setBytes_byteAt (memoryWf_pool hWf hSeq) hMem hIn hx,
      fun k hk => State.setSeq_seqAt_other hRise hk _, rfl, rfl, unreport_withSeqs ..⟩
  · rw [withinWidths_fit (fitAll_one.mpr hHandle), memWrite_outside hOut]

/-- Settles O27: a read inside a live buffer answers its slice, and writes nothing. -/
theorem bufRead : Obligations.BufRead := by
  intro s q h o n v hReady hRise hSeq
  have hExec : exec (.bufRead q h o n) s = execBufRead q h o n s := rfl
  rw [hExec, execBufRead, operation_ready hReady, withSeq_live hSeq]
  refine ⟨fun hWide => ?_, fun hHandle m hMem hIn => ?_, fun hHandle hOut => ?_⟩
  · rw [withinWidths_wide]
    exact fun hFits => Nat.not_lt.mpr hWide (fitAll_one.mp hFits)
  · rw [withinWidths_fit (fitAll_one.mpr hHandle), memRead_inside hMem hIn]
    exact ⟨complete (.bytes (m.slice o n)) s, m.slice o n, rfl, rfl, Memory.slice_length m o n,
      fun k hk => Memory.slice_getD m o n k hk, rfl, rfl⟩
  · rw [withinWidths_fit (fitAll_one.mpr hHandle), memRead_outside hOut]

end Sys2Proof.Machine
end

section
/-! PROOF. The navigator's table (30_encoding.md R78, R80), and the operations that clock the port without a sequence: PULSE and SHIFT
(40_navigator.md R95, 41_shift_engine.md R98 to R106). -/

namespace Sys2Proof.Machine

open Sys2Proof

/-! ## The table -/

/-- The sixteen states, in the order of their codes. -/
def allStates : List TapState :=
  [.reset, .idle, .selectDR, .captureDR, .shiftDR, .exit1DR, .pauseDR, .exit2DR, .updateDR, .selectIR, .captureIR, .shiftIR, .exit1IR,
    .pauseIR, .exit2IR, .updateIR]

theorem mem_allStates (a : TapState) : a ∈ allStates := by cases a <;> decide

theorem navEntry_walk_reaches (a b : TapState) : (navEntry a b).walk.foldl TapState.next a = b := by
  rw [← navBits_eq_walk, navBits_reaches]

theorem navEntry_walk_avoids_reset (a b : TapState) (hb : b ≠ .reset) (k : Nat) (hPos : 0 < k) (hk : k < (navEntry a b).count) :
    ((navEntry a b).walk.take k).foldl TapState.next a ≠ .reset :=
  (by decide +kernel : ∀ a ∈ allStates, ∀ b ∈ allStates, b ≠ .reset → ∀ k < (navEntry a b).count, 0 < k →
    ((navEntry a b).walk.take k).foldl TapState.next a ≠ .reset) a (mem_allStates a) b (mem_allStates b) hb k hk hPos

/-- One clock that does not enter `Reset` brings the target at most one clock nearer, and then it is the first of the table's walk. -/
theorem navEntry_first_clock (a b : TapState) (hb : b ≠ .reset) (bit : Bool) (hNext : a.next bit ≠ .reset) :
    (navEntry a b).count ≤ (navEntry (a.next bit) b).count + 1 ∧
      ((navEntry a b).count = (navEntry (a.next bit) b).count + 1 →
        (navEntry a b).walk = bit :: (navEntry (a.next bit) b).walk) :=
  (by decide +kernel : ∀ a ∈ allStates, ∀ b ∈ allStates, b ≠ .reset → ∀ bit : Bool, a.next bit ≠ .reset →
    (navEntry a b).count ≤ (navEntry (a.next bit) b).count + 1 ∧
      ((navEntry a b).count = (navEntry (a.next bit) b).count + 1 →
        (navEntry a b).walk = bit :: (navEntry (a.next bit) b).walk)) a (mem_allStates a) b (mem_allStates b) hb bit hNext

/-- Every way to a state that does not pass through `Reset` is at least as long as the table's, and no other is as short. -/
theorem navEntry_shortest {b : TapState} (hb : b ≠ .reset) (bits : List Bool) (a : TapState) (hReach : bits.foldl TapState.next a = b)
    (hAvoid : ∀ k, 0 < k → k < bits.length → (bits.take k).foldl TapState.next a ≠ .reset) :
    (navEntry a b).count ≤ bits.length ∧ (bits.length = (navEntry a b).count → bits = (navEntry a b).walk) := by
  induction bits generalizing a with
  | nil =>
    obtain rfl : a = b := hReach
    have hCount := navEntry_self_count hb
    refine ⟨hCount.le, fun _ => (List.eq_nil_of_length_eq_zero ?_).symm⟩
    rw [navEntry_walk_length, hCount]
  | cons bit rest ih =>
    obtain ⟨hLong, hOnly⟩ := ih (a.next bit) hReach fun k hPos hk => by
      have hLater := hAvoid (k + 1) (Nat.succ_pos k) (Nat.succ_lt_succ hk)
      rwa [List.take_succ_cons, List.foldl_cons] at hLater
    have hNotReset : a.next bit ≠ .reset := by
      cases rest with
      | nil => exact fun hReset => hb (hReach.symm.trans hReset)
      | cons c more => exact hAvoid 1 Nat.one_pos (Nat.succ_lt_succ (Nat.succ_pos _))
    obtain ⟨hNear, hWalk⟩ := navEntry_first_clock a b hb bit hNotReset
    rw [List.length_cons]
    refine ⟨hNear.trans (Nat.succ_le_succ hLong), fun hEqual => ?_⟩
    have hRest : rest.length = (navEntry (a.next bit) b).count := by omega
    rw [hWalk (by omega), ← hOnly hRest]

/-- Settles O7: the table is read entry by entry, and the walks are shortest by induction on the other way (`navEntry_shortest`). -/
theorem navigationTable : Obligations.NavigationTable := by
  intro a b
  refine ⟨navEntry_walk_length a b, navEntry_walk_reaches a b, fun hb => ?_, navEntry_walk_avoids_reset a b,
    fun hb bits => navEntry_shortest hb bits a⟩
  rw [hb, navEntry_reset_walk]
  rfl

/-! ## PULSE -/

theorem holdTms_eq (c : TapState) : c.holdTms = decide (c = .reset) := by cases c <;> rfl

/-- Driving that comes back to the state it began in leaves the Port as it was. -/
theorem Drives.port_of_cur {s t : State} (h : Drives s t) (hCur : t.port.cur = s.port.cur) : t.port = s.port := by
  rw [h.port_withCur, hCur]
  rfl

theorem exec_pulse_fit {s : State} {count : Nat} (hReady : s.ready) (hCount : count < 2 ^ 32) :
    exec (.pulse count) s = .next (
      if count = 0 then complete .nothing s
      else if s.port.cur.stable = false then takeFault .notStable s
      else complete .nothing (ticks count s)) := by
  have hExec : exec (.pulse count) s = execPulse count s := rfl
  rw [hExec, execPulse, operation_ready hReady, withinWidths_fit (fitAll_one.mpr hCount)]

/-- PULSE past its checks: no tick for a count of 0, so the ticks in both cases. -/
theorem exec_pulse_accepted {s : State} {count : Nat} (hReady : s.ready) (hCount : count < 2 ^ 32)
    (hStable : count = 0 ∨ s.port.cur.stable = true) : exec (.pulse count) s = .next (complete .nothing (ticks count s)) := by
  rw [exec_pulse_fit hReady hCount]
  split
  next hZero => rw [hZero]; rfl
  next hPos =>
    rcases hStable with hZero | hStable
    · exact absurd hZero hPos
    · rw [if_neg (by rw [hStable]; decide)]

/-- Settles O9: the account of the ticks (`ticks_clocked`), which stay in a stable state. -/
theorem pulse : Obligations.Pulse := by
  intro s count hReady
  refine ⟨fun hCount hStable => ?_, fun hCount hPos hUnstable => ?_, fun hWide => ?_⟩
  · obtain ⟨_, hTicks⟩ := ticks_clocked count s
    have hPulses := hTicks.count
    have hTms := hTicks.droveTms
    rw [List.length_replicate] at hPulses
    rw [holdTms_eq] at hTms
    exact ⟨complete .nothing (ticks count s), exec_pulse_accepted hReady hCount hStable, hPulses,
      hTicks.drives.port_of_cur (ticks_cur hStable), hTms, hTicks.droveTdi, hTicks.droveHwm, hTicks.tdi, hTicks.hwm, rfl, rfl,
      undrive_complete hTicks.drives .nothing⟩
  · rw [exec_pulse_fit hReady hCount, if_neg (by omega), if_pos hUnstable]
  · have hExec : exec (.pulse count) s = execPulse count s := rfl
    rw [hExec, execPulse, operation_ready hReady, withinWidths_wide]
    exact fun hFits => Nat.not_lt.mpr hWide (fitAll_one.mp hFits)

/-! ## SHIFT -/

/-- The TMS bits of a shift of at least one bit. -/
theorem shiftTms_eq (leave : Bool) {n : Nat} (h : 1 ≤ n) : shiftTms leave n = List.replicate (n - 1) false ++ [leave] := by
  induction n with
  | zero => omega
  | succ n ih =>
    cases n with
    | zero => simp [shiftTms]
    | succ n =>
      rw [shiftTms, ih (by omega)]
      simp [List.replicate_succ]

theorem padBit_eq (dir : Dir) : dir.padBit = decide (dir = .ir) := by cases dir <;> rfl

/-- Settles O10: the account of the shift engine (`shiftEngine_clocked`), and SHIFT returns what the engine answers. -/
theorem hostShift : Obligations.HostShift := by
  intro s dir n tdi capture exit hReady hState hPos hMax hBytes
  have hExec := exec_shift_accepted hReady hState hPos hMax (TdiMode.longEnough_of_bytes hBytes) capture exit
  have hLength : (tdi.bits n).length = n := tdi.bits_length n
  obtain ⟨samples, hShift, hAnswer⟩ := shiftEngine_clocked dir (tdi.bits n) exit s
  have hCur := shiftEngine_cur (exit := exit) hState (hLength.symm ▸ hPos : 1 ≤ (tdi.bits n).length)
  generalize shiftEngine dir (tdi.bits n) exit s = r at hExec hShift hAnswer hCur
  have hPulses := hShift.count
  have hTms := hShift.droveTms
  have hTdi := hShift.droveTdi
  have hSampled := hShift.sampledCount
  rw [shiftTms_length, hLength, paddedBits] at hPulses hSampled
  rw [hLength, paddedBits, shiftTms_eq _ (by omega)] at hTms
  rw [paddedStream, padBit_eq] at hTdi
  rw [hLength] at hAnswer
  rw [hAnswer] at hExec
  exact ⟨_, samples, hExec, hPulses, hSampled, hShift.sampled, hTdi, hTms, hShift.droveHwm, hShift.hwm, hCur, rfl, rfl,
    undrive_complete hShift.drives _⟩

end Sys2Proof.Machine
end

section
/-! PROOF. The commands (43_executor.md R121, R122): captured bits stored in a buffer of the current sequence, the account of one legal
word, and the step that runs it. -/

namespace Sys2Proof.Machine

open Sys2Proof

/-! ## Bits of a buffer -/

theorem Memory.setBitAt_bitAt {m : Memory} (hWf : m.wf = true) {i : Nat} (hi : i / 8 < m.size) (b : Bool) (j : Nat) :
    (m.setBitAt i b).bitAt j = if j = i then b else m.bitAt j := by
  have hOffset : i % 8 < 8 := Nat.mod_lt i (by omega)
  have hOffset' : j % 8 < 8 := Nat.mod_lt j (by omega)
  rw [Memory.bitAt, Memory.setBitAt, Memory.setByte_byteAt hWf hi, Memory.bitAt]
  by_cases hByte : j / 8 = i / 8
  · rw [if_pos hByte, setBit_getLsbD _ hOffset hOffset', ← hByte]
    by_cases hBit : j % 8 = i % 8
    · rw [if_pos hBit, if_pos (by omega)]
    · rw [if_neg hBit, if_neg (by omega)]
  · rw [if_neg hByte, if_neg (by omega)]

/-- What a buffer reads after a stream was written to it (41_shift_engine.md R105). -/
theorem Memory.setStream_bitAt {m : Memory} (hWf : m.wf = true) {i : Nat} {bits : List Bool}
    (hFit : bytesFor (i + bits.length) ≤ m.size) (j : Nat) :
    (m.setStream i bits).bitAt j = if i ≤ j ∧ j < i + bits.length then bits.getD (j - i) false else m.bitAt j := by
  induction bits generalizing m i with
  | nil =>
    rw [Memory.setStream, if_neg]
    simp only [List.length_nil]
    omega
  | cons b rest ih =>
    simp only [List.length_cons] at hFit ⊢
    unfold bytesFor at hFit ih
    rw [Memory.setStream, ih (Memory.setBitAt_wf hWf i b) (by rw [Memory.setBitAt_size]; omega),
      Memory.setBitAt_bitAt hWf (by omega)]
    by_cases hLater : i + 1 ≤ j ∧ j < i + 1 + rest.length
    · obtain ⟨d, rfl⟩ : ∃ d, j = i + 1 + d := ⟨j - (i + 1), by omega⟩
      rw [if_pos hLater, if_pos (by omega), show i + 1 + d - i = d + 1 by omega, List.getD_cons_succ, Nat.add_sub_cancel_left]
    · rw [if_neg hLater]
      by_cases hHere : j = i
      · rw [if_pos hHere, if_pos (by omega), hHere, Nat.sub_self, List.getD_cons_zero]
      · rw [if_neg hHere, if_neg (by omega)]

theorem Memory.stream_setStream {m : Memory} (hWf : m.wf = true) {bits : List Bool} (hFit : bytesFor bits.length ≤ m.size) :
    (m.setStream 0 bits).stream bits.length = bits := by
  refine List.ext_getElem (Memory.stream_length _ _) fun i _ hi => ?_
  simp only [Memory.stream, List.getElem_map, List.getElem_range]
  rw [Memory.setStream_bitAt hWf (by rwa [Nat.zero_add]), if_pos ⟨Nat.zero_le i, by omega⟩, Nat.sub_zero,
    List.getD_eq_getElem _ _ hi]

/-! ## Captured bits -/

/-- A pool after captured bits are stored in buffer `tdo`, if there is one. -/
def capturePool (tdo : Option Nat) (bits : List Bool) (pool : List Memory) : List Memory :=
  match tdo with
  | none => pool
  | some h => match pool[h]? with
    | none => pool
    | some m => pool.set h (m.setStream 0 bits)

theorem capturePool_dead {h : Nat} {pool : List Memory} (hDead : pool[h]? = none) (bits : List Bool) :
    capturePool (some h) bits pool = pool := by
  rw [capturePool, hDead]

theorem capturePool_live {h : Nat} {pool : List Memory} {m : Memory} (hMem : pool[h]? = some m) (bits : List Bool) :
    capturePool (some h) bits pool = pool.set h (m.setStream 0 bits) := by
  rw [capturePool, hMem]

theorem capturePool_cases (tdo : Option Nat) (bits : List Bool) (pool : List Memory) :
    capturePool tdo bits pool = pool ∨
      ∃ h m, tdo = some h ∧ pool[h]? = some m ∧ capturePool tdo bits pool = pool.set h (m.setStream 0 bits) := by
  cases tdo with
  | none => exact .inl rfl
  | some h =>
    cases hMem : pool[h]? with
    | none => exact .inl (capturePool_dead hMem bits)
    | some m => exact .inr ⟨h, m, rfl, hMem, capturePool_live hMem bits⟩

@[simp] theorem capturePool_length (tdo : Option Nat) (bits : List Bool) (pool : List Memory) :
    (capturePool tdo bits pool).length = pool.length := by
  rcases capturePool_cases tdo bits pool with h | ⟨h, m, -, -, hPool⟩
  · rw [h]
  · rw [hPool, List.length_set]

theorem capturePool_other {tdo : Option Nat} {k : Nat} (hk : tdo ≠ some k) (bits : List Bool) (pool : List Memory) :
    (capturePool tdo bits pool)[k]? = pool[k]? := by
  rcases capturePool_cases tdo bits pool with h | ⟨h, m, hTdo, -, hPool⟩
  · rw [h]
  · rw [hPool, List.getElem?_set_ne]
    rintro rfl
    exact hk hTdo

theorem capturePool_same {h : Nat} {pool : List Memory} {m : Memory} (hMem : pool[h]? = some m) (bits : List Bool) :
    (capturePool (some h) bits pool)[h]? = some (m.setStream 0 bits) := by
  rw [capturePool_live hMem, List.getElem?_set_self (List.getElem?_eq_some_iff.mp hMem).1]

theorem capturePool_sizes (tdo : Option Nat) (bits : List Bool) (pool : List Memory) :
    (capturePool tdo bits pool).map Memory.size = pool.map Memory.size := by
  rcases capturePool_cases tdo bits pool with h | ⟨h, m, -, hMem, hPool⟩
  · rw [h]
  · rw [hPool, List.map_set, Memory.setStream_size]
    refine List.ext_getElem? fun k => ?_
    by_cases hk : h = k
    · subst hk
      obtain ⟨hBound, hGet⟩ := List.getElem?_eq_some_iff.mp hMem
      rw [List.getElem?_set_self (by rwa [List.length_map]), List.getElem?_map, hMem]
      rfl
    · rw [List.getElem?_set_ne hk]

theorem capturePool_wf {pool : List Memory} (hWf : pool.all Memory.wf = true) (tdo : Option Nat) (bits : List Bool) :
    (capturePool tdo bits pool).all Memory.wf = true := by
  rcases capturePool_cases tdo bits pool with h | ⟨h, m, -, hMem, hPool⟩
  · rw [h, hWf]
  · rw [hPool]
    exact pool_set_wf hWf h (Memory.setStream_wf (List.all_eq_true.mp hWf m (List.mem_of_getElem? hMem)) 0 bits)

/-! ## Where a command stores -/

theorem curSeq_run {s : State} {q : Nat} {v : Seq} (hRun : s.exec.seq = some q) (hSeq : s.seqAt q = some v) : s.curSeq = v := by
  rw [State.curSeq, hRun]
  simp only [hSeq, Option.getD_some]

theorem curSeq_dead {s : State} {q : Nat} (hRun : s.exec.seq = some q) (hSeq : s.seqAt q = none) : s.curSeq = Seq.empty := by
  rw [State.curSeq, hRun]
  simp only [hSeq, Option.getD_none]

theorem curSeq_fixed {s : State} (hRun : s.exec.seq = none) : s.curSeq = s.pseq := by
  rw [State.curSeq, hRun]

/-- Everything storing captured bits writes: nothing, or the pool of the sequence of the run, or that of the record of fixed
sequences. -/
theorem storeCapture_cases (tdo : Option Nat) (bits : List Bool) (s : State) :
    (storeCapture tdo bits s = s ∧ capturePool tdo bits s.curSeq.pool = s.curSeq.pool) ∨
      (∃ q v, s.exec.seq = some q ∧ s.seqAt q = some v ∧
        storeCapture tdo bits s = s.setSeq q { v with pool := capturePool tdo bits v.pool }) ∨
      (s.exec.seq = none ∧ storeCapture tdo bits s = s.withPseq { s.pseq with pool := capturePool tdo bits s.pseq.pool }) := by
  rcases hTdo : tdo with _ | h
  · exact .inl ⟨rfl, rfl⟩
  · cases hMem : s.curSeq.pool[h]? with
    | none =>
      refine .inl ⟨?_, capturePool_dead hMem bits⟩
      rw [storeCapture]
      simp only [hMem]
    | some m =>
      have hStore : storeCapture (some h) bits s = s.setCurPool (capturePool (some h) bits s.curSeq.pool) := by
        rw [capturePool_live hMem, storeCapture]
        simp only [hMem]
      refine .inr ?_
      rw [hStore]
      cases hRun : s.exec.seq with
      | none =>
        refine .inr ⟨rfl, ?_⟩
        rw [curSeq_fixed hRun, State.setCurPool, hRun]
      | some q =>
        cases hSeq : s.seqAt q with
        | none =>
          rw [curSeq_dead hRun hSeq] at hMem
          cases hMem
        | some v =>
          refine .inl ⟨q, v, rfl, hSeq, ?_⟩
          rw [curSeq_run hRun hSeq, State.setCurPool, hRun]
          simp only [hSeq]

theorem storeCapture_seqAt_other {s : State} (hRise : handlesRise 0 s.seqs = true) {q : Nat} (hq : s.exec.seq ≠ some q)
    (tdo : Option Nat) (bits : List Bool) : (storeCapture tdo bits s).seqAt q = s.seqAt q := by
  rcases storeCapture_cases tdo bits s with ⟨h, -⟩ | ⟨r, v, hRun, -, h⟩ | ⟨-, h⟩
  · rw [h]
  · rw [h, State.setSeq_seqAt_other hRise]
    rintro rfl
    exact hq hRun
  · rw [h]
    rfl

theorem storeCapture_pseq_of_run {s : State} (hRun : s.exec.seq ≠ none) (tdo : Option Nat) (bits : List Bool) :
    (storeCapture tdo bits s).pseq = s.pseq := by
  rcases storeCapture_cases tdo bits s with ⟨h, -⟩ | ⟨q, v, -, -, h⟩ | ⟨hNone, -⟩
  · rw [h]
  · rw [h]
    rfl
  · exact absurd hNone hRun

/-- The current sequence after captured bits are stored: its pool, and nothing else of it. -/
theorem storeCapture_curSeq {s : State} (hRise : handlesRise 0 s.seqs = true) (tdo : Option Nat) (bits : List Bool) :
    (storeCapture tdo bits s).curSeq = { s.curSeq with pool := capturePool tdo bits s.curSeq.pool } := by
  rcases storeCapture_cases tdo bits s with ⟨h, hPool⟩ | ⟨q, v, hRun, hSeq, h⟩ | ⟨hRun, h⟩
  · rw [h, hPool]
  · rw [h, curSeq_run hRun hSeq]
    exact curSeq_run (s := s.setSeq q _) hRun (State.setSeq_seqAt_same hRise q _)
  · rw [h, curSeq_fixed hRun, curSeq_fixed]
    · rfl
    · exact hRun

/-- The current sequence is read off the table, the record of fixed sequences and `EXEC.SEQ`. -/
theorem curSeq_congr {s t : State} (hSeqs : t.seqs = s.seqs) (hPseq : t.pseq = s.pseq) (hRun : t.exec.seq = s.exec.seq) :
    t.curSeq = s.curSeq := by
  unfold State.curSeq State.seqAt
  rw [hSeqs, hPseq, hRun]

theorem memoryWf_curSeq {s : State} (h : s.memoryWf = true) : s.curSeq.pool.all Memory.wf = true := by
  cases hRun : s.exec.seq with
  | none =>
    rw [curSeq_fixed hRun]
    exact ((Bool.and_eq_true _ _).mp h).2
  | some q =>
    cases hSeq : s.seqAt q with
    | none => rw [curSeq_dead hRun hSeq]; rfl
    | some v => rw [curSeq_run hRun hSeq]; exact memoryWf_pool h hSeq

/-! ## The commands -/

theorem commandBody_accepted {legal : Seq → Bool} {s : State} (hInit : s.port.init = true) (hLegal : legal s.curSeq = true)
    (effect : State → State) : commandBody legal effect s = effect s := by
  rw [commandBody, hInit, hLegal]
  rfl

theorem commandBody_refused {legal : Seq → Bool} {s : State} (hInit : s.port.init = true) (hLegal : legal s.curSeq = false)
    (effect : State → State) : commandBody legal effect s = takeFault .badCommand s := by
  rw [commandBody, hInit, hLegal]
  rfl

/-- Putting back what driving wrote gives the state before. -/
theorem Drives.undrive {s t : State} (h : Drives s t) : undrive s t = s := by
  rw [h.eq]
  cases s
  rfl

theorem setStateLegal_iff {st : TapState} {idle : Nat} : setStateLegal st idle = true ↔ idle < 2 ^ 32 ∧ (idle = 0 ∨ st.stable = true) := by
  simp only [setStateLegal, Instr.wellFormed, Bool.and_eq_true, Bool.or_eq_true, decide_eq_true_eq]

/-- Settles O13: the account of the effect (`setStateEffect_clocked`), at the bits of the table. -/
theorem setStateCommand : Obligations.SetStateCommand := by
  intro s st idle hReady hIdle hStable
  have hLegal : setStateLegal st idle = true := setStateLegal_iff.mpr ⟨hIdle, hStable⟩
  obtain ⟨⟨_, hEffect⟩, hCur⟩ := setStateEffect_clocked hStable s
  have hPulses := hEffect.count
  have hTms := hEffect.droveTms
  rw [navBits_eq_walk, List.length_append, List.length_replicate, navEntry_walk_length] at hPulses
  rw [navBits_eq_walk, holdTms_eq] at hTms
  refine ⟨setStateEffect st idle s, ?_, hCur, hPulses, hTms, hEffect.droveTdi, hEffect.droveHwm, hEffect.tdi, hEffect.hwm,
    hEffect.drives.result, hEffect.drives.returned, hEffect.drives.undrive⟩
  rw [exec_setState_live hReady.2, setStateBody, commandBody_accepted hReady.1 hLegal]

theorem holdsBits_iff {pool : List Memory} {n h : Nat} : holdsBits pool n h = true ↔ ∃ m, pool[h]? = some m ∧ bytesFor n ≤ m.size := by
  unfold holdsBits
  cases pool[h]? <;> simp

/-- 30_encoding.md R75 (c), (e) as the operands of a SHIFT command. -/
theorem shiftLegal_iff {v : Seq} {n : Nat} {tdi : TdiSource} {tdo : Option Nat} :
    shiftLegal v n tdi tdo = true ↔ 1 ≤ n ∧ n < 2 ^ 23 ∧
      (∀ h, tdi = .buf h → h < 2 ^ 16 ∧ ∃ m, v.pool[h]? = some m ∧ bytesFor n ≤ m.size) ∧
      (∀ h, tdo = some h → h < 2 ^ 16 ∧ ∃ m, v.pool[h]? = some m ∧ bytesFor n ≤ m.size) := by
  have hTdi : (tdi.fits = true ∧ tdiLive v.pool n tdi = true) ↔
      ∀ h, tdi = .buf h → h < 2 ^ 16 ∧ ∃ m, v.pool[h]? = some m ∧ bytesFor n ≤ m.size := by
    cases tdi <;> simp [TdiSource.fits, tdiLive, holdsBits_iff]
  have hTdo : (tdoFits tdo = true ∧ tdoLive v.pool n tdo = true) ↔
      ∀ h, tdo = some h → h < 2 ^ 16 ∧ ∃ m, v.pool[h]? = some m ∧ bytesFor n ≤ m.size := by
    cases tdo <;> simp [tdoFits, tdoLive, holdsBits_iff]
  rw [← hTdi, ← hTdo, shiftLegal, Bool.and_eq_true, Bool.and_eq_true, shiftWellFormed_iff]
  tauto

/-- The samples of a SHIFT command reach past the caller's bits. -/
theorem commandTms_covers (p : Port) (dir : Dir) (n : Nat) (exit : TapState) :
    enterPulses p.cur dir + p.prePad dir + n ≤ (commandTms p dir n exit).length := by
  rw [commandTms_length, paddedBits]
  omega

/-- Settles O14: the account of the effect (`shiftEffect_clocked`), and the pool that captured bits leave (`storeCapture_curSeq`). -/
theorem shiftCommand : Obligations.ShiftCommand := by
  intro s dir n tdi tdo exit hReady hWf hRise hPos hMax hTdi hTdo
  have hLegal : shiftLegal s.curSeq n tdi tdo = true := shiftLegal_iff.mpr ⟨hPos, hMax, hTdi, hTdo⟩
  have hBody : shiftBody dir n tdi tdo exit s = shiftEffect dir n tdi tdo exit s := commandBody_accepted hReady.1 hLegal _
  have hExec := exec_shiftCommand_live hReady.2 dir n tdi tdo exit
  rw [hBody] at hExec
  obtain ⟨samples, hClocked, hCur, hSeqs, hPseq, hRegs⟩ := shiftEffect_clocked hPos tdi tdo exit s
  generalize shiftEffect dir n tdi tdo exit s = t at hExec hClocked hCur hSeqs hPseq hRegs
  have hPulses := hClocked.count
  rw [commandTms_length] at hPulses
  have hCount : ((samples.drop (enterPulses s.port.cur dir + s.port.prePad dir)).take n).length = n := by
    rw [List.length_take, List.length_drop, hClocked.sampledCount]
    have hCovers := commandTms_covers s.port dir n exit
    omega
  have hCurSeq : t.curSeq = { s.curSeq with
      pool := capturePool tdo ((samples.drop (enterPulses s.port.cur dir + s.port.prePad dir)).take n) s.curSeq.pool } := by
    rw [← storeCapture_curSeq hRise]
    refine curSeq_congr hSeqs hPseq ?_
    rw [hRegs, storeCapture_exec]
  refine ⟨t, samples, hExec, hCur, hPulses, hClocked.droveTms, hClocked.droveTdi, hClocked.sampled, hClocked.droveHwm, hClocked.hwm,
    hRegs, ?_, ?_, fun h m hMem => ?_, fun q hq => ?_, fun hRun => ?_, hClocked.drives.result, hClocked.drives.returned,
    hClocked.drives.undrive⟩
  · rw [hCurSeq]
  · rw [hCurSeq, capturePool_length]
  · rw [hCurSeq]
    by_cases hHere : tdo = some h
    · obtain ⟨-, m', hMem', hSize⟩ := hTdo h hHere
      obtain rfl : m = m' := Option.some.inj (hMem.symm.trans hMem')
      have hMemWf : m.wf = true := List.all_eq_true.mp (memoryWf_curSeq hWf) m (List.mem_of_getElem? hMem)
      subst hHere
      refine ⟨_, capturePool_same hMem _, Memory.setStream_size .., fun i => ?_⟩
      rw [Memory.setStream_bitAt hMemWf (by rw [Nat.zero_add, hCount]; exact hSize), hCount, Nat.zero_add, Nat.sub_zero]
      by_cases hi : i < n
      · rw [if_pos ⟨Nat.zero_le i, hi⟩, if_pos ⟨rfl, hi⟩, List.getD_eq_getElem?_getD, List.getElem?_take_of_lt hi,
          List.getElem?_drop, List.getD_eq_getElem?_getD]
      · rw [if_neg (fun h => hi h.2), if_neg (fun h => hi h.2)]
    · exact ⟨m, (capturePool_other hHere _ _).trans hMem, rfl, fun i => (if_neg fun h => hHere h.1).symm⟩
  · exact (congrArg (seqLookup · q) hSeqs).trans (storeCapture_seqAt_other hRise hq _ _)
  · rw [hPseq, storeCapture_pseq_of_run hRun]

end Sys2Proof.Machine
end

section
/-! PROOF. What one word of a run does, and what it leaves of the sequences (43_executor.md R118 to R125): a legal word clocks and stores
captured bits, any other takes `BadCommand`. -/

namespace Sys2Proof.Machine

open Sys2Proof

/-! ## What a word drives and captures -/

/-- What a command word drives on TDI, from the Port and the sequence it runs on. -/
def wordTdi (p : Port) (v : Seq) (w : Word64) : List Bool :=
  match decodeCommand w with
  | .ok (.shiftDr n tdi _ _) => paddedStream p .dr (commandBits v n tdi)
  | .ok (.shiftIr n tdi _ _) => paddedStream p .ir (commandBits v n tdi)
  | _ => []

/-- The buffer a command word captures to, if there is one. -/
def wordTdo (w : Word64) : Option Nat :=
  match decodeCommand w with
  | .ok (.shiftDr _ _ tdo _) => tdo
  | .ok (.shiftIr _ _ tdo _) => tdo
  | _ => none

/-- The samples of a command word that are its caller's (41_shift_engine.md R103). -/
def wordCaptured (p : Port) (w : Word64) (samples : List Bool) : List Bool :=
  match decodeCommand w with
  | .ok (.shiftDr n _ _ _) => (samples.drop (enterPulses p.cur .dr + p.prePad .dr)).take n
  | .ok (.shiftIr n _ _ _) => (samples.drop (enterPulses p.cur .ir + p.prePad .ir)).take n
  | _ => []

section

variable {w : Word64}

theorem setState_word {st : TapState} {idle : Nat} (h : decodeCommand w = .ok (.setState st idle)) (p : Port) (v : Seq) (s : State)
    (samples : List Bool) :
    wordBody w s = setStateBody st idle s ∧ wordTms p w = navBits p.cur st ++ List.replicate idle st.holdTms ∧ wordTdi p v w = [] ∧
      wordTdo w = none ∧ wordCaptured p w samples = [] ∧ commandPulses p p.cur w = (walkPulses p.cur st + idle, st) := by
  rw [wordBody, wordTms, wordTdi, wordTdo, wordCaptured, commandPulses, h, holdTms_eq]
  exact ⟨rfl, rfl, rfl, rfl, rfl, rfl⟩

theorem shift_word {dir : Dir} {n : Nat} {tdi : TdiSource} {tdo : Option Nat} {exit : TapState}
    (h : decodeCommand w = .ok (Instr.shiftCommand dir n tdi tdo exit)) (p : Port) (v : Seq) (s : State) (samples : List Bool) :
    wordBody w s = shiftBody dir n tdi tdo exit s ∧ wordTms p w = commandTms p dir n exit ∧
      wordTdi p v w = paddedStream p dir (commandBits v n tdi) ∧ wordTdo w = tdo ∧
      wordCaptured p w samples = (samples.drop (enterPulses p.cur dir + p.prePad dir)).take n ∧
      commandPulses p p.cur w = (enterPulses p.cur dir + paddedBits p dir n + leavePulses dir exit, exit) := by
  rw [wordBody, wordTms, wordTdi, wordTdo, wordCaptured, commandPulses, h]
  cases dir <;> exact ⟨rfl, rfl, rfl, rfl, rfl, rfl⟩

end

/-! ## One word -/

/-- `t` is `s` after the legal word `w` ran, its clocks sampling `samples`. -/
structure WordRan (w : Word64) (s t : State) (samples : List Bool) : Prop where
  clocked : Clocked s (rebuffer s t) (wordTms s.port w) (wordTdi s.port s.curSeq w) samples
  cur : t.port.cur = (commandPulses s.port s.port.cur w).2
  seqs : t.seqs = (storeCapture (wordTdo w) (wordCaptured s.port w samples) s).seqs
  pseq : t.pseq = (storeCapture (wordTdo w) (wordCaptured s.port w samples) s).pseq
  seq : t.exec.seq = s.exec.seq
  pc : t.exec.pc = s.exec.pc

theorem rebuffer_drives {s t : State} (h : Drives s t) : rebuffer s t = t := by
  rw [h.eq]
  rfl

/-- Everything a legal word does. -/
theorem wordBody_ran {w : Word64} {s : State} (hInit : s.port.init = true) (hLegal : wordLegal s.curSeq w = true) :
    ∃ samples, WordRan w s (wordBody w s) samples := by
  rcases wordLegal_cases hLegal with ⟨st, idle, hWord, hCommand⟩ | ⟨dir, n, tdi, tdo, exit, hWord, hCommand⟩
  · obtain ⟨⟨samples, hEffect⟩, hCur⟩ := setStateEffect_clocked (stable_of_legal hCommand) s
    obtain ⟨hBody, hTms, hTdi, hTdo, hCaptured, hPulses⟩ := setState_word hWord s.port s.curSeq s samples
    have hAnswer : wordBody w s = setStateEffect st idle s := by rw [hBody, setStateBody, commandBody_accepted hInit hCommand]
    have hStore : storeCapture (wordTdo w) (wordCaptured s.port w samples) s = s := by rw [hTdo]; rfl
    have hDrives := hEffect.drives
    rw [hAnswer]
    refine ⟨samples, ⟨?_, ?_, ?_, ?_, ?_, ?_⟩⟩
    · rw [rebuffer_drives hDrives, hTms, hTdi]
      exact hEffect
    · rw [hPulses, hCur]
    · rw [hStore, hDrives.seqs]
    · rw [hStore, hDrives.pseq]
    · rw [hDrives.exec]
    · rw [hDrives.exec]
  · obtain ⟨samples, hClocked, hCur, hSeqs, hPseq, hRegs⟩ := shiftEffect_clocked (pos_of_shiftLegal hCommand) tdi tdo exit s
    obtain ⟨hBody, hTms, hTdi, hTdo, hCaptured, hPulses⟩ := shift_word hWord s.port s.curSeq s samples
    have hAnswer : wordBody w s = shiftEffect dir n tdi tdo exit s := by rw [hBody, shiftBody, commandBody_accepted hInit hCommand]
    rw [← hTms, ← hTdi] at hClocked
    rw [hAnswer]
    exact ⟨samples, hClocked, by rw [hPulses, hCur], by rw [hTdo, hCaptured, hSeqs], by rw [hTdo, hCaptured, hPseq], by rw [hRegs],
      by rw [hRegs]⟩

/-- A word that is not legal takes `BadCommand` and does nothing else (30_encoding.md R75). -/
theorem wordBody_refused {w : Word64} {s : State} (hInit : s.port.init = true) (hIllegal : wordLegal s.curSeq w = false) :
    wordBody w s = takeFault .badCommand s := by
  cases hWord : decodeCommand w with
  | error e => rw [wordBody, hWord]
  | ok i =>
    rcases decodeCommand_ok hWord with ⟨st, idle, rfl, -⟩ | ⟨dir, n, tdi, tdo, exit, rfl, -⟩
    · rw [(setState_word hWord s.port s.curSeq s []).1, setStateBody, commandBody_refused hInit]
      rw [← hIllegal, wordLegal_setState _ _ _ hWord]
    · rw [(shift_word hWord s.port s.curSeq s []).1, shiftBody, commandBody_refused hInit]
      rw [← hIllegal, wordLegal_shift _ hWord]

theorem WordRan.fault {w : Word64} {s t : State} {samples : List Bool} (h : WordRan w s t samples) : t.fault = s.fault :=
  h.clocked.drives.fault

theorem WordRan.port {w : Word64} {s t : State} {samples : List Bool} (h : WordRan w s t samples) :
    t.port = s.port.withCur t.port.cur := h.clocked.drives.port_withCur

theorem WordRan.ready {w : Word64} {s t : State} {samples : List Bool} (h : WordRan w s t samples) (hReady : s.ready) : t.ready :=
  ⟨by rw [h.port]; exact hReady.1, h.fault.trans hReady.2⟩

/-! ## One step of a run -/

/-- A word that decodes is the instruction's meaning, whatever the sequence. -/
theorem exec_of_word {w : Word64} {i : Instr} {s : State} (hLive : s.fault = none) (hWord : decodeCommand w = .ok i) :
    exec i s = .next (wordBody w s) := by
  rcases decodeCommand_ok hWord with ⟨st, idle, rfl, -⟩ | ⟨dir, n, tdi, tdo, exit, rfl, -⟩
  · rw [exec_setState_live hLive, (setState_word hWord s.port s.curSeq s []).1]
  · rw [exec_shiftCommand_live hLive, (shift_word hWord s.port s.curSeq s []).1]

theorem advancePc_faulted {s : State} (h : s.fault ≠ none) : advancePc s = s :=
  if_pos (Option.isSome_iff_ne_none.mpr h)

theorem advancePc_live {s : State} (h : s.fault = none) : advancePc s = s.setPc (s.exec.pc + 1) := by
  rw [advancePc, h]
  rfl

theorem advancePc_takeFault (r : FaultReason) (s : State) : advancePc (takeFault r s) = takeFault r s :=
  advancePc_faulted (by simp)

/-- A step of a run runs the word at `EXEC.PC`, then advances unless it faulted. -/
theorem step_word {s : State} {q : Nat} {v : Seq} {w : Word64} (hReady : s.ready) (hRun : s.exec.seq = some q)
    (hSeq : s.seqAt q = some v) (hAt : v.cmds[s.exec.pc]? = some w) : step s = .next (advancePc (wordBody w s)) := by
  have hFetch := fetch_command ((activeRun_ready hReady).trans hRun) hSeq hAt
  cases hWord : decodeCommand w with
  | error e => rw [step_badWord hReady.2 hFetch hWord, wordBody, hWord, advancePc_takeFault]
  | ok i => rw [step_command hReady.2 hFetch hWord, exec_of_word hReady.2 hWord, advanceRun]

/-- Settles O3: R75 on the bits is the machine's check (`legalBits_eq_wordLegal`), and a word runs or faults by it. -/
theorem illegalWordsFault : Obligations.IllegalWordsFault := by
  intro s q v w hReady hRun hSeq hAt
  have hCur : s.curSeq = v := curSeq_run hRun hSeq
  rw [step_word hReady hRun hSeq hAt, legalBits_eq_wordLegal, ← hCur]
  refine ⟨fun hLegal => ?_, fun hIllegal => ?_⟩
  · obtain ⟨samples, hRan⟩ := wordBody_ran hReady.1 hLegal
    have hLive := hRan.fault.trans hReady.2
    refine ⟨_, rfl, (advancePc_fault _).trans hLive, ?_, ?_⟩
    · rw [advancePc_live hLive, ← hRan.pc]
      rfl
    · rw [advancePc_live hLive, ← hRun, ← hRan.seq]
      rfl
  · rw [wordBody_refused hReady.1 hIllegal, advancePc_takeFault]

/-! ## What stays of the sequences -/

/-- `v'` is `v` with other bytes in its buffers: sizes stay, and so does the canonical form. -/
structure Rebytes (v v' : Seq) : Prop where
  node : v'.node = v.node
  cmds : v'.cmds = v.cmds
  consumed : v'.consumed = v.consumed
  sizes : v'.pool.map Memory.size = v.pool.map Memory.size
  wf : v.pool.all Memory.wf = true → v'.pool.all Memory.wf = true

theorem Rebytes.refl (v : Seq) : Rebytes v v := ⟨rfl, rfl, rfl, rfl, id⟩

theorem Rebytes.trans {u v w : Seq} (a : Rebytes u v) (b : Rebytes v w) : Rebytes u w where
  node := b.node.trans a.node
  cmds := b.cmds.trans a.cmds
  consumed := b.consumed.trans a.consumed
  sizes := b.sizes.trans a.sizes
  wf := fun h => b.wf (a.wf h)

theorem Rebytes.length {v v' : Seq} (h : Rebytes v v') : v'.pool.length = v.pool.length := by
  simpa using congrArg List.length h.sizes

theorem capture_rebytes (tdo : Option Nat) (bits : List Bool) (v : Seq) :
    Rebytes v { v with pool := capturePool tdo bits v.pool } :=
  ⟨rfl, rfl, rfl, capturePool_sizes tdo bits v.pool, fun h => capturePool_wf h tdo bits⟩

theorem holdsBits_of_sizes {pool pool' : List Memory} (h : pool'.map Memory.size = pool.map Memory.size) (n k : Nat) :
    holdsBits pool' n k = holdsBits pool n k := by
  have hSize : ∀ p : List Memory, holdsBits p n k = ((p.map Memory.size)[k]?).any fun size => decide (bytesFor n ≤ size) := fun p => by
    rw [List.getElem?_map, holdsBits]
    cases p[k]? <;> rfl
  rw [hSize, hSize, h]

/-- Legality asks only the sizes of the buffers. -/
theorem Rebytes.wordLegal {v v' : Seq} (h : Rebytes v v') (w : Word64) : wordLegal v' w = wordLegal v w := by
  have hShift : ∀ n tdi tdo, shiftLegal v' n tdi tdo = shiftLegal v n tdi tdo := fun n tdi tdo => by
    unfold shiftLegal tdiLive tdoLive
    simp only [holdsBits_of_sizes h.sizes]
  unfold Machine.wordLegal
  simp only [hShift]

theorem Rebytes.legal {v v' : Seq} (h : Rebytes v v') : v'.legal = v.legal := by
  have hWords : legalBits v'.pool = legalBits v.pool := funext fun w => by
    rw [legalBits_eq_wordLegal, legalBits_eq_wordLegal, h.wordLegal]
  rw [Seq.legal, Seq.legal, h.cmds, hWords]

/-- The buffers a run may write: from `s` to `t` only bytes of buffers of the current sequence change. -/
structure Stores (s t : State) : Prop where
  seq : t.exec.seq = s.exec.seq
  pseqBytes : Rebytes s.pseq t.pseq
  mem : ∀ e ∈ t.seqs, ∃ e' ∈ s.seqs, e'.1 = e.1 ∧ Rebytes e'.2 e.2
  rise : handlesRise 0 s.seqs = true → handlesRise 0 t.seqs = true
  lookup : handlesRise 0 s.seqs = true → ∀ k, (s.seqAt k = none ∧ t.seqAt k = none) ∨
    ∃ v v', s.seqAt k = some v ∧ t.seqAt k = some v' ∧ Rebytes v v'
  other : handlesRise 0 s.seqs = true → ∀ k, s.exec.seq ≠ some k → t.seqAt k = s.seqAt k
  pseq : s.exec.seq ≠ none → t.pseq = s.pseq
  seqs : s.exec.seq = none → t.seqs = s.seqs

theorem Stores.of_eq {s t : State} (hSeq : t.exec.seq = s.exec.seq) (hSeqs : t.seqs = s.seqs) (hPseq : t.pseq = s.pseq) :
    Stores s t := by
  have hAt : ∀ k, t.seqAt k = s.seqAt k := fun k => congrArg (seqLookup · k) hSeqs
  refine ⟨hSeq, hPseq ▸ Rebytes.refl _, fun e he => ⟨e, hSeqs ▸ he, rfl, Rebytes.refl _⟩, fun h => hSeqs ▸ h, fun _ k => ?_,
    fun _ k _ => hAt k, fun _ => hPseq, fun _ => hSeqs⟩
  rw [hAt]
  cases h : s.seqAt k with
  | none => exact .inl ⟨rfl, rfl⟩
  | some v => exact .inr ⟨v, v, rfl, rfl, Rebytes.refl v⟩

theorem Stores.refl (s : State) : Stores s s := Stores.of_eq rfl rfl rfl

theorem Stores.trans {s t u : State} (a : Stores s t) (b : Stores t u) : Stores s u where
  seq := b.seq.trans a.seq
  pseqBytes := a.pseqBytes.trans b.pseqBytes
  mem := fun e he => by
    obtain ⟨e', he', hKey', hBytes'⟩ := b.mem e he
    obtain ⟨e'', he'', hKey'', hBytes''⟩ := a.mem e' he'
    exact ⟨e'', he'', hKey''.trans hKey', hBytes''.trans hBytes'⟩
  rise := fun h => b.rise (a.rise h)
  lookup := fun h k => by
    rcases a.lookup h k with ⟨hs, ht⟩ | ⟨v, v', hs, ht, hBytes⟩
    · rcases b.lookup (a.rise h) k with ⟨-, hu⟩ | ⟨_, _, ht', -, -⟩
      · exact .inl ⟨hs, hu⟩
      · rw [ht] at ht'; cases ht'
    · rcases b.lookup (a.rise h) k with ⟨ht', -⟩ | ⟨v₁, v'', ht', hu, hBytes'⟩
      · rw [ht] at ht'; cases ht'
      · obtain rfl : v' = v₁ := Option.some.inj (ht.symm.trans ht')
        exact .inr ⟨v, v'', hs, hu, hBytes.trans hBytes'⟩
  other := fun h k hk => (b.other (a.rise h) k (a.seq ▸ hk)).trans (a.other h k hk)
  pseq := fun h => (b.pseq (a.seq ▸ h)).trans (a.pseq h)
  seqs := fun h => (b.seqs (a.seq.trans h)).trans (a.seqs h)

/-- Writing bytes to the buffers of a live sequence. -/
theorem setSeq_stores {s : State} {q : Nat} {v v' : Seq} (hRun : s.exec.seq = some q) (hSeq : s.seqAt q = some v)
    (hBytes : Rebytes v v') : Stores s (s.setSeq q v') where
  seq := rfl
  pseqBytes := Rebytes.refl _
  mem := fun e he => by
    rcases seqInsert_mem he with rfl | h
    · exact ⟨(q, v), seqLookup_mem hSeq, rfl, hBytes⟩
    · exact ⟨e, h, rfl, Rebytes.refl _⟩
  rise := fun h => seqInsert_rise h (Nat.zero_le q) (seqLookup_lt h hSeq)
  lookup := fun h k => by
    by_cases hk : k = q
    · subst hk
      exact .inr ⟨v, v', hSeq, State.setSeq_seqAt_same h k v', hBytes⟩
    · rw [State.setSeq_seqAt_other h hk]
      cases hAt : s.seqAt k with
      | none => exact .inl ⟨rfl, rfl⟩
      | some x => exact .inr ⟨x, x, rfl, rfl, Rebytes.refl x⟩
  other := fun h k hk => State.setSeq_seqAt_other h (fun hkq => hk (hRun.trans (congrArg some hkq.symm))) v'
  pseq := fun _ => rfl
  seqs := fun h => by rw [hRun] at h; cases h

theorem withPseq_stores {s : State} {v : Seq} (hRun : s.exec.seq = none) (hBytes : Rebytes s.pseq v) : Stores s (s.withPseq v) :=
  { Stores.of_eq (s := s) (t := (s.withPseq v).withPseq s.pseq) rfl rfl rfl with
    seq := rfl
    pseqBytes := hBytes
    pseq := fun h => absurd hRun h
    seqs := fun _ => rfl }

theorem storeCapture_stores (tdo : Option Nat) (bits : List Bool) (s : State) : Stores s (storeCapture tdo bits s) := by
  rcases storeCapture_cases tdo bits s with ⟨h, -⟩ | ⟨q, v, hRun, hSeq, h⟩ | ⟨hRun, h⟩
  · rw [h]
    exact Stores.refl s
  · rw [h]
    exact setSeq_stores hRun hSeq (capture_rebytes tdo bits v)
  · rw [h]
    exact withPseq_stores hRun (capture_rebytes tdo bits s.pseq)

theorem WordRan.stores {w : Word64} {s t : State} {samples : List Bool} (h : WordRan w s t samples) : Stores s t := by
  have hExec := storeCapture_exec (wordTdo w) (wordCaptured s.port w samples) s
  exact (storeCapture_stores _ _ s).trans (Stores.of_eq (by rw [h.seq, hExec]) h.seqs h.pseq)

/-- The current sequence changes by bytes only. -/
theorem Stores.curSeq {s t : State} (h : Stores s t) (hRise : handlesRise 0 s.seqs = true) : Rebytes s.curSeq t.curSeq := by
  cases hRun : s.exec.seq with
  | none =>
    rw [curSeq_fixed hRun, curSeq_fixed (h.seq.trans hRun)]
    exact h.pseqBytes
  | some q =>
    have hRun' := h.seq.trans hRun
    rcases h.lookup hRise q with ⟨hs, ht⟩ | ⟨v, v', hs, ht, hBytes⟩
    · rw [curSeq_dead hRun hs, curSeq_dead hRun' ht]
      exact Rebytes.refl _
    · rw [curSeq_run hRun hs, curSeq_run hRun' ht]
      exact hBytes

theorem Stores.memoryWf {s t : State} (h : Stores s t) (hWf : s.memoryWf = true) : t.memoryWf = true := by
  simp only [State.memoryWf, Bool.and_eq_true, List.all_eq_true (l := s.seqs), List.all_eq_true (l := t.seqs)] at hWf ⊢
  refine ⟨fun e he => ?_, h.pseqBytes.wf hWf.2⟩
  obtain ⟨e', he', -, hBytes⟩ := h.mem e he
  exact hBytes.wf (hWf.1 e' he')

theorem Stores.seqsLegal {s t : State} (h : Stores s t) (hLegal : s.seqsLegal = true) : t.seqsLegal = true := by
  simp only [State.seqsLegal, Bool.and_eq_true, List.all_eq_true (l := s.seqs), List.all_eq_true (l := t.seqs),
    decide_eq_true_eq] at hLegal ⊢
  refine ⟨h.rise hLegal.1, fun e he => ?_⟩
  obtain ⟨e', he', -, hBytes⟩ := h.mem e he
  obtain ⟨hWords, hRoom⟩ := hLegal.2 e' he'
  exact ⟨hBytes.legal.trans hWords, by rw [hBytes.length]; exact hRoom⟩

end Sys2Proof.Machine
end

section
/-! PROOF. A run (43_executor.md R118 to R125): words that run one after another, the end of a run that completes, the stop of one that does
not, and SEQ_RUN as its single steps (60_exceptions.md R196). -/

namespace Sys2Proof.Machine

open Sys2Proof

/-! ## The account of a run -/

/-- `t` is `s` after some words ran: their clocking, and bytes stored in buffers of the current sequence. -/
structure Ran (s t : State) (tms tdi samples : List Bool) : Prop where
  clocked : Clocked s (rebuffer s t) tms tdi samples
  stores : Stores s t

/-- Clocking is the same whatever the buffers and the executor registers are. -/
theorem Clocked.rebuffered {s t : State} {tms tdi samples : List Bool} (h : Clocked s t tms tdi samples) (r : State) :
    Clocked (rebuffer r s) (rebuffer r t) tms tdi samples where
  drives := { h.drives with seqs := rfl, pseq := rfl, exec := rfl }
  count := h.count
  droveTms := h.droveTms
  droveTdi := h.droveTdi
  droveHwm := h.droveHwm
  sampled := h.sampled
  sampledCount := h.sampledCount
  readyReads := h.readyReads
  endReads := h.endReads
  timers := h.timers
  cur := h.cur
  tckLow := h.tckLow
  tms := h.tms
  tdi := h.tdi
  hwm := h.hwm
  now := h.now

theorem Ran.refl (s : State) : Ran s s [] [] [] := ⟨Clocked.refl s, Stores.refl s⟩

theorem Ran.trans {s t u : State} {a b c a' b' c' : List Bool} (x : Ran s t a b c) (y : Ran t u a' b' c') :
    Ran s u (a ++ a') (b ++ b') (c ++ c') :=
  ⟨x.clocked.trans (y.clocked.rebuffered s), x.stores.trans y.stores⟩

theorem Ran.setPc {s t : State} {tms tdi samples : List Bool} (h : Ran s t tms tdi samples) (k : Nat) :
    Ran s (t.setPc k) tms tdi samples := ⟨h.clocked, h.stores.trans (Stores.of_eq rfl rfl rfl)⟩

theorem WordRan.ran {w : Word64} {s t : State} {samples : List Bool} (h : WordRan w s t samples) :
    Ran s t (wordTms s.port w) (wordTdi s.port s.curSeq w) samples := ⟨h.clocked, h.stores⟩

section

variable {s t : State} {tms tdi samples : List Bool}

theorem Ran.fault (h : Ran s t tms tdi samples) : t.fault = s.fault := h.clocked.drives.fault

theorem Ran.port (h : Ran s t tms tdi samples) : t.port = s.port.withCur t.port.cur := h.clocked.drives.port_withCur

theorem Ran.ready (h : Ran s t tms tdi samples) (hReady : s.ready) : t.ready :=
  ⟨by rw [h.port]; exact hReady.1, h.fault.trans hReady.2⟩

end

/-! ## The words of a run -/

/-- The state after a legal word and the advance of `EXEC.PC`. -/
theorem advanced_word {w : Word64} {s : State} (hReady : s.ready) (hLegal : wordLegal s.curSeq w = true) :
    ∃ samples t, advancePc (wordBody w s) = t ∧ Ran s t (wordTms s.port w) (wordTdi s.port s.curSeq w) samples ∧
      t.port.cur = (commandPulses s.port s.port.cur w).2 ∧ t.exec.pc = s.exec.pc + 1 ∧
      t.pseq = (storeCapture (wordTdo w) (wordCaptured s.port w samples) s).pseq := by
  obtain ⟨samples, hRan⟩ := wordBody_ran hReady.1 hLegal
  refine ⟨samples, _, advancePc_live (hRan.fault.trans hReady.2), hRan.ran.setPc _, hRan.cur, ?_, hRan.pseq⟩
  rw [← hRan.pc]
  rfl

theorem runWords_cons_live {w : Word64} {rest : List Word64} {s : State} (h : (advancePc (wordBody w s)).fault = none) :
    runWords (w :: rest) s = runWords rest (advancePc (wordBody w s)) := by
  rw [runWords]
  exact if_neg (by rw [h]; decide)

theorem runWords_cons_refused {w : Word64} {s : State} (hInit : s.port.init = true) (hIllegal : wordLegal s.curSeq w = false)
    (rest : List Word64) : runWords (w :: rest) s = takeFault .badCommand s := by
  rw [runWords, wordBody_refused hInit hIllegal, advancePc_takeFault]
  exact if_pos rfl

theorem runWords_append {a : List Word64} {s : State} (h : (runWords a s).fault = none) (b : List Word64) :
    runWords (a ++ b) s = runWords b (runWords a s) := by
  induction a generalizing s with
  | nil => rfl
  | cons w rest ih =>
    obtain ⟨hLive, hRun⟩ := runWords_cons_of_live h
    rw [hRun] at h ⊢
    rw [List.cons_append, runWords_cons_live ((advancePc_fault _).trans hLive), ih h]

/-- Everything the words of a run can do: some of them run, and either none is left or the next one takes `BadCommand`. -/
theorem runWords_cases (words : List Word64) {s : State} (hReady : s.ready) :
    ∃ u tms tdi samples, Ran s u tms tdi samples ∧ s.exec.pc ≤ u.exec.pc ∧ u.exec.pc ≤ s.exec.pc + words.length ∧
      (runWords words s = u ∨ runWords words s = takeFault .badCommand u) := by
  induction words generalizing s with
  | nil => exact ⟨s, [], [], [], Ran.refl s, Nat.le_refl _, Nat.le_refl _, .inl rfl⟩
  | cons w rest ih =>
    cases hLegal : wordLegal s.curSeq w with
    | false => exact ⟨s, [], [], [], Ran.refl s, Nat.le_refl _, Nat.le_add_right _ _, .inr (runWords_cons_refused hReady.1 hLegal rest)⟩
    | true =>
      obtain ⟨samples, t, hWord, hRan, -, hPc, -⟩ := advanced_word hReady hLegal
      obtain ⟨u, tms, tdi, samples', hRest, hLow, hHigh, hEnd⟩ := ih (hRan.ready hReady)
      have hStep : runWords (w :: rest) s = runWords rest t := by
        rw [runWords_cons_live (hWord ▸ (hRan.ready hReady).2), hWord]
      rw [hStep]
      exact ⟨u, _, _, _, hRan.trans hRest, by omega, by rw [List.length_cons]; omega, hEnd⟩

theorem commandPulses_withCur (p : Port) (c cur : TapState) (w : Word64) :
    commandPulses (p.withCur c) cur w = commandPulses p cur w := rfl

theorem runTms_withCur (p : Port) (c cur : TapState) (words : List Word64) :
    runTms (p.withCur c) cur words = runTms p cur words := by
  induction words generalizing cur with
  | nil => rfl
  | cons w rest ih =>
    rw [runTms, runTms, commandPulses_withCur, ih]
    rfl

theorem runEnd_withCur (p : Port) (c cur : TapState) (words : List Word64) :
    runEnd (p.withCur c) cur words = runEnd p cur words := rfl

/-- Everything a run of legal words does. -/
theorem runWords_legal {words : List Word64} {s : State} (hReady : s.ready) (hRise : handlesRise 0 s.seqs = true)
    (hLegal : ∀ w ∈ words, wordLegal s.curSeq w = true) :
    ∃ tdi samples, Ran s (runWords words s) (runTms s.port s.port.cur words) tdi samples ∧
      (runWords words s).port.cur = runEnd s.port s.port.cur words ∧ (runWords words s).exec.pc = s.exec.pc + words.length := by
  induction words generalizing s with
  | nil => exact ⟨[], [], Ran.refl s, rfl, rfl⟩
  | cons w rest ih =>
    obtain ⟨samples, t, hWord, hRan, hCur, hPc, -⟩ := advanced_word hReady (hLegal w List.mem_cons_self)
    have hStep : runWords (w :: rest) s = runWords rest t := by
      rw [runWords_cons_live (hWord ▸ (hRan.ready hReady).2), hWord]
    obtain ⟨tdi', samples', hRest, hEnd, hPc'⟩ := ih (hRan.ready hReady) (hRan.stores.rise hRise) fun x hx => by
      rw [(hRan.stores.curSeq hRise).wordLegal]
      exact hLegal x (List.mem_cons_of_mem _ hx)
    rw [hRan.port, hCur, runTms_withCur, Port.withCur_cur] at hRest
    rw [hRan.port, hCur, runEnd_withCur, Port.withCur_cur] at hEnd
    rw [hStep]
    refine ⟨_, _, hRan.trans hRest, hEnd, ?_⟩
    rw [hPc', hPc, List.length_cons]
    omega

/-! ## The start of SEQ_RUN -/

section

variable {s : State} {q : Nat} {v : Seq}

theorem beginRun_ready (hReady : s.ready) : (beginRun q v s).ready := hReady

theorem beginRun_seqAt_same (hRise : handlesRise 0 s.seqs = true) :
    (beginRun q v s).seqAt q = some { v with consumed := true } := State.setSeq_seqAt_same hRise q _

theorem beginRun_seqAt_other (hRise : handlesRise 0 s.seqs = true) {k : Nat} (hk : k ≠ q) : (beginRun q v s).seqAt k = s.seqAt k :=
  State.setSeq_seqAt_other hRise hk _

theorem beginRun_rise (hRise : handlesRise 0 s.seqs = true) (hSeq : s.seqAt q = some v) :
    handlesRise 0 (beginRun q v s).seqs = true := seqInsert_rise hRise (Nat.zero_le q) (seqLookup_lt hRise hSeq)

theorem beginRun_curSeq (hRise : handlesRise 0 s.seqs = true) : (beginRun q v s).curSeq = { v with consumed := true } :=
  curSeq_run (s := beginRun q v s) rfl (beginRun_seqAt_same hRise)

/-- SEQ_RUN of an open sequence: the words, then the end unless one faulted. -/
theorem exec_seqRun_open (hReady : s.ready) (hSeq : s.seqAt q = some v) (hOpen : v.consumed = false) :
    exec (.seqRun q) s = .next (if (runWords v.cmds (beginRun q v s)).fault.isSome then runWords v.cmds (beginRun q v s)
      else endRun (runWords v.cmds (beginRun q v s))) := by
  have hExec : exec (.seqRun q) s = execSeqRun q s := rfl
  rw [hExec, execSeqRun, operation_ready hReady, withOpenSeq_open hSeq hOpen]

theorem exec_seqRun_completes (hReady : s.ready) (hSeq : s.seqAt q = some v) (hOpen : v.consumed = false)
    (hLive : (runWords v.cmds (beginRun q v s)).fault = none) :
    exec (.seqRun q) s = .next (endRun (runWords v.cmds (beginRun q v s))) := by
  rw [exec_seqRun_open hReady hSeq hOpen, if_neg (by rw [hLive]; decide)]

theorem exec_seqRun_stops (hReady : s.ready) (hSeq : s.seqAt q = some v) (hOpen : v.consumed = false)
    (hFault : (runWords v.cmds (beginRun q v s)).fault ≠ none) :
    exec (.seqRun q) s = .next (runWords v.cmds (beginRun q v s)) := by
  rw [exec_seqRun_open hReady hSeq hOpen, if_pos (Option.isSome_iff_ne_none.mpr hFault)]

/-- The sequence of a run, after some of its words. -/
theorem Ran.seqAt_run {u : State} {tms tdi samples : List Bool} (h : Ran (beginRun q v s) u tms tdi samples)
    (hRise : handlesRise 0 s.seqs = true) (hSeq : s.seqAt q = some v) :
    ∃ v', u.seqAt q = some v' ∧ Rebytes { v with consumed := true } v' := by
  rcases h.stores.lookup (beginRun_rise hRise hSeq) q with ⟨hNone, -⟩ | ⟨v₁, v', hStart, hEnd, hBytes⟩
  · rw [beginRun_seqAt_same hRise] at hNone
    cases hNone
  · obtain rfl := Option.some.inj ((beginRun_seqAt_same hRise).symm.trans hStart)
    exact ⟨v', hEnd, hBytes⟩

theorem Ran.seqAt_beside {u : State} {tms tdi samples : List Bool} (h : Ran (beginRun q v s) u tms tdi samples)
    (hRise : handlesRise 0 s.seqs = true) (hSeq : s.seqAt q = some v) {k : Nat} (hk : k ≠ q) : u.seqAt k = s.seqAt k :=
  (h.stores.other (beginRun_rise hRise hSeq) k fun hRun => hk (Option.some.inj hRun).symm).trans (beginRun_seqAt_other hRise hk)

/-- The clocking of a run, from the state before SEQ_RUN. -/
theorem Ran.clocked_beginRun {u : State} {tms tdi samples : List Bool} (h : Ran (beginRun q v s) u tms tdi samples) :
    Clocked s (rebuffer s u) tms tdi samples := h.clocked.rebuffered s

end

theorem undrive_endRun {s u : State} (h : Drives s (rebuffer s u)) : undrive s (rebuffer s (endRun u)) = s :=
  undrive_complete h .nothing

theorem Seq.legal_iff {v : Seq} : v.legal = true ↔ ∀ w ∈ v.cmds, wordLegal v w = true := by
  unfold Seq.legal
  rw [List.all_eq_true]
  exact forall₂_congr fun w _ => by rw [legalBits_eq_wordLegal]

/-- Legality does not ask the consumed bit. -/
theorem wordLegal_consumed (v : Seq) (b : Bool) (w : Word64) : wordLegal { v with consumed := b } w = wordLegal v w := rfl

/-- Settles O16: the account of a run of legal words (`runWords_legal`), from the state SEQ_RUN begins it in. -/
theorem seqRun : Obligations.SeqRun := by
  intro s q v hReady hRise hSeq hOpen hLegal
  obtain ⟨tdi, samples, hRan, hEnd, hPc⟩ := runWords_legal (words := v.cmds) (beginRun_ready (q := q) (v := v) hReady)
    (beginRun_rise hRise hSeq) fun w hw => by
      rw [beginRun_curSeq hRise, wordLegal_consumed]
      exact Seq.legal_iff.mp hLegal w hw
  have hLive : (runWords v.cmds (beginRun q v s)).fault = none := hRan.fault.trans hReady.2
  have hPulses := runWords_pulsed hLive
  have hExec := exec_seqRun_completes hReady hSeq hOpen hLive
  generalize runWords v.cmds (beginRun q v s) = u at hExec hRan hLive hPulses hEnd hPc
  obtain ⟨v', hSeq', hBytes⟩ := hRan.seqAt_run hRise hSeq
  have hClocked := hRan.clocked_beginRun
  have hRunPseq : u.pseq = s.pseq := hRan.stores.pseq (fun h => nomatch h)
  refine ⟨endRun u, v', hExec, hLive, rfl, rfl, rfl, ?_, hPulses, hClocked.droveTms, hEnd, hSeq', hBytes.consumed, hBytes.cmds,
    hBytes.node, hBytes.sizes, fun k hk => hRan.seqAt_beside hRise hSeq hk, hRunPseq, hClocked.droveHwm, hClocked.drives.grows,
    undrive_endRun hClocked.drives⟩
  exact hPc.trans (Nat.zero_add _)

/-- Settles O17: the words before it run (`runWords_legal`), and the illegal word faults without an effect. -/
theorem runStopsAtIllegalWord : Obligations.RunStopsAtIllegalWord := by
  intro s q v before after w hReady hRise hSeq hOpen hCmds hBefore hIllegal
  obtain ⟨tdi, samples, hRan, -, hPc⟩ := runWords_legal (words := before) (beginRun_ready (q := q) (v := v) hReady)
    (beginRun_rise hRise hSeq) fun x hx => by
      rw [beginRun_curSeq hRise, wordLegal_consumed, ← legalBits_eq_wordLegal]
      exact List.all_eq_true.mp hBefore x hx
  have hLive : (runWords before (beginRun q v s)).fault = none := hRan.fault.trans hReady.2
  have hRefused : wordLegal (runWords before (beginRun q v s)).curSeq w = false := by
    rw [(hRan.stores.curSeq (beginRun_rise hRise hSeq)).wordLegal, beginRun_curSeq hRise, wordLegal_consumed,
      ← legalBits_eq_wordLegal, hIllegal]
  have hAnswer : runWords v.cmds (beginRun q v s) = takeFault .badCommand (runWords before (beginRun q v s)) := by
    rw [hCmds, runWords_append hLive, runWords_cons_refused (hRan.ready (beginRun_ready hReady)).1 hRefused]
  have hPulses := runWords_pulsed hLive
  obtain ⟨v', hSeq', hBytes⟩ := hRan.seqAt_run hRise hSeq
  refine ⟨takeFault .badCommand (runWords before (beginRun q v s)), v', ?_, rfl, hRan.stores.seq, hPc.trans (Nat.zero_add _), hPulses,
    hSeq', hBytes.consumed, hBytes.cmds, hRan.clocked.drives.result⟩
  rw [exec_seqRun_stops hReady hSeq hOpen (by rw [hAnswer, takeFault_fault]; simp), hAnswer]

/-! ## A run as its steps -/

theorem step_runEnd {s : State} {q : Nat} {v : Seq} (hReady : s.ready) (hRun : s.exec.seq = some q) (hSeq : s.seqAt q = some v)
    (hEnd : v.cmds[s.exec.pc]? = none) : step s = .next (endRun s) := by
  have hFetch : fetch s = .runEnd := by simp only [fetch, (activeRun_ready hReady).trans hRun, hSeq, hEnd]
  simp only [step, hReady.2, hFetch, Option.isSome_none, Bool.false_eq_true, if_false]

theorem steps_succ {s t : State} (h : step s = .next t) (k : Nat) : steps (k + 1) s = steps k t := by
  rw [steps, h]

/-- From within a run, single steps run the words that are left, then end the run unless one faulted. -/
theorem steps_run {left : List Word64} {s : State} {q : Nat} {v : Seq} (hReady : s.ready) (hRise : handlesRise 0 s.seqs = true)
    (hRun : s.exec.seq = some q) (hSeq : s.seqAt q = some v) (hLeft : v.cmds.drop s.exec.pc = left) :
    ((runWords left s).fault = none → steps (left.length + 1) s = .next (endRun (runWords left s))) ∧
      ((runWords left s).fault ≠ none →
        ∃ k, (runWords left s).exec.pc = s.exec.pc + k ∧ steps (k + 1) s = .next (runWords left s)) := by
  induction left generalizing s v with
  | nil =>
    refine ⟨fun _ => ?_, fun hFault => absurd hReady.2 hFault⟩
    have hEnd : v.cmds[s.exec.pc]? = none := List.getElem?_eq_none (List.drop_eq_nil_iff.mp hLeft)
    exact steps_succ (step_runEnd hReady hRun hSeq hEnd) 0
  | cons w rest ih =>
    have hAt : v.cmds[s.exec.pc]? = some w := by rw [← List.head?_drop, hLeft]; rfl
    have hStep := step_word hReady hRun hSeq hAt
    cases hLegal : wordLegal s.curSeq w with
    | false =>
      rw [wordBody_refused hReady.1 hLegal, advancePc_takeFault] at hStep
      rw [runWords_cons_refused hReady.1 hLegal]
      exact ⟨nofun, fun _ => ⟨0, rfl, steps_succ hStep 0⟩⟩
    | true =>
      obtain ⟨samples, t, hWord, hRan, -, hPc, -⟩ := advanced_word hReady hLegal
      rw [runWords_cons_live (hWord ▸ (hRan.ready hReady).2), hWord]
      rw [hWord] at hStep
      obtain ⟨v', hSeq', hBytes⟩ : ∃ v', t.seqAt q = some v' ∧ Rebytes v v' := by
        rcases hRan.stores.lookup hRise q with ⟨hNone, -⟩ | ⟨v₁, v', hSome, hSeq', hBytes⟩
        · rw [hSeq] at hNone; cases hNone
        · obtain rfl := Option.some.inj (hSeq.symm.trans hSome)
          exact ⟨v', hSeq', hBytes⟩
      have hRest : v'.cmds.drop t.exec.pc = rest := by
        rw [hBytes.cmds, hPc, ← List.drop_drop, hLeft]
        rfl
      obtain ⟨hDone, hStopped⟩ := ih (hRan.ready hReady) (hRan.stores.rise hRise) (hRan.stores.seq.trans hRun) hSeq' hRest
      refine ⟨fun hLive => (steps_succ hStep _).trans (hDone hLive), fun hFault => ?_⟩
      obtain ⟨k, hk, hSteps⟩ := hStopped hFault
      exact ⟨k + 1, by rw [hk, hPc]; omega, (steps_succ hStep _).trans hSteps⟩

/-- Settles O18: SEQ_RUN begins the run that `steps_run` steps through. -/
theorem runIsItsSteps : Obligations.RunIsItsSteps := by
  intro s q v hReady hRise hSeq hOpen
  obtain ⟨hDone, hStopped⟩ := steps_run (left := v.cmds) (beginRun_ready (q := q) (v := v) hReady) (beginRun_rise hRise hSeq) rfl
    (beginRun_seqAt_same hRise) rfl
  by_cases hLive : (runWords v.cmds (beginRun q v s)).fault = none
  · exact ⟨_, exec_seqRun_completes hReady hSeq hOpen hLive, fun _ => hDone hLive, fun hFault => absurd hLive hFault⟩
  · refine ⟨_, exec_seqRun_stops hReady hSeq hOpen hLive, fun h => absurd h hLive, fun hFault => ?_⟩
    obtain ⟨k, hk, hSteps⟩ := hStopped hFault
    rw [hk, show (beginRun q v s).exec.pc = 0 from rfl, Nat.zero_add]
    exact hSteps

end Sys2Proof.Machine
end

section
/-! PROOF. Waiting (60_exceptions.md R187 to R190): what the timer has reached when a delay ends or a poll gives up, and the fuse-blow
handshake (46_efuse.md R152 to R154). -/

namespace Sys2Proof.Machine

open Sys2Proof

/-! ## The timer -/

/-- A difference of readings is never more than the time that passed (60_exceptions.md R187). -/
theorem reading_sub_le {before now : Nat} (h : before ≤ now) : (BitVec.ofNat 64 now - BitVec.ofNat 64 before).toNat ≤ now - before := by
  have hDiff : BitVec.ofNat 64 now - BitVec.ofNat 64 before = BitVec.ofNat 64 (now - before) := by
    conv_lhs => rw [← Nat.sub_add_cancel h, BitVec.ofNat_add, BitVec.add_sub_cancel]
  rw [hDiff, BitVec.toNat_ofNat]
  exact Nat.mod_le _ _

/-- The timer after a reading that is past the deadline, as the clock and as the reading. -/
theorem timerReadPast_now {before us : Nat} {s : State} (h : before ≤ s.env.now) :
    before + us ≤ (timerReadPast (BitVec.ofNat 64 before) us s).2.env.now := by
  have hDiff := reading_sub_le (before := before) (now := s.env.now + s.env.advance s.trace) (by omega)
  show before + us ≤ s.env.now + s.env.advance s.trace +
    (us - (BitVec.ofNat 64 (s.env.now + s.env.advance s.trace) - BitVec.ofNat 64 before).toNat)
  omega

theorem timerReadPast_reading (t0 : BitVec 64) {us : Nat} (hUs : us < 2 ^ 64) (s : State) :
    us ≤ ((timerReadPast t0 us s).1 - t0).toNat := by
  have hReading : (timerReadPast t0 us s).1 - t0 = BitVec.ofNat 64 (s.env.now + s.env.advance s.trace) - t0 +
      BitVec.ofNat 64 (us - (BitVec.ofNat 64 (s.env.now + s.env.advance s.trace) - t0).toNat) := by
    show BitVec.ofNat 64 (_ + _) - t0 = _
    rw [BitVec.ofNat_add]
    bv_omega
  rw [hReading]
  generalize BitVec.ofNat 64 (s.env.now + s.env.advance s.trace) - t0 = d
  have hd := d.isLt
  rw [BitVec.toNat_add, BitVec.toNat_ofNat]
  omega

theorem timerRead_now (s : State) : s.env.now ≤ (timerRead s).2.env.now := (timerRead_waited s).now

theorem timerRead_reading (s : State) : (timerRead s).1 = BitVec.ofNat 64 (timerRead s).2.env.now := rfl

/-! ## Delay -/

/-- `t` is `s` after timer readings and nothing else, the newest of them `last`. -/
structure Timed (s t : State) (readings : List (BitVec 64)) (last : BitVec 64) : Prop where
  waited : Waited s t
  trace : t.trace = readings.map Event.timer ++ s.trace
  last : readings.head? = some last

theorem timerRead_timed (s : State) : Timed s (timerRead s).2 [(timerRead s).1] (timerRead s).1 :=
  ⟨timerRead_waited s, rfl, rfl⟩

theorem timerReadPast_timed (t0 : BitVec 64) (us : Nat) (s : State) :
    Timed s (timerReadPast t0 us s).2 [(timerReadPast t0 us s).1] (timerReadPast t0 us s).1 :=
  ⟨timerReadPast_waited t0 us s, rfl, rfl⟩

theorem Timed.trans {s t u : State} {a b : List (BitVec 64)} {x y : BitVec 64} (h : Timed s t a x) (h' : Timed t u b y) :
    Timed s u (b ++ a) y where
  waited := h.waited.trans h'.waited
  trace := by rw [h'.trace, h.trace, List.map_append, List.append_assoc]
  last := by rw [List.head?_append, h'.last]; rfl

/-- Everything the loop of a delay does: it ends past its deadline. -/
theorem delayLoop_timed {before us : Nat} (k : Nat) {s : State} (h : before ≤ s.env.now) :
    ∃ readings last, Timed s (delayLoop (BitVec.ofNat 64 before) us k s) readings last ∧
      before + us ≤ (delayLoop (BitVec.ofNat 64 before) us k s).env.now ∧
      (us < 2 ^ 64 → us ≤ (last - BitVec.ofNat 64 before).toNat) := by
  induction k generalizing s with
  | zero => exact ⟨_, _, timerReadPast_timed _ us s, timerReadPast_now h, fun hUs => timerReadPast_reading _ hUs s⟩
  | succ k ih =>
    have hLater : before ≤ (timerRead s).2.env.now := h.trans (timerRead_now s)
    simp only [delayLoop]
    split
    next hPast =>
      refine ⟨_, _, timerRead_timed s, ?_, fun _ => hPast⟩
      rw [timerRead_reading] at hPast
      have hDiff := reading_sub_le hLater
      omega
    next =>
      obtain ⟨readings, last, hRest, hNow, hDiff⟩ := ih hLater
      exact ⟨_, last, (timerRead_timed s).trans hRest, hNow, hDiff⟩

/-- Everything a delay does. -/
theorem delay_timed (us : Nat) (s : State) :
    ∃ readings first last, Timed s (delay us s) readings last ∧ readings.getLast? = some first ∧ s.env.now + us ≤ (delay us s).env.now ∧
      (us < 2 ^ 64 → us ≤ (last - first).toNat) := by
  obtain ⟨readings, last, hLoop, hNow, hDiff⟩ := delayLoop_timed (us := us) ((timerRead s).2.env.patience (timerRead s).2.trace us)
    (Nat.le_refl (timerRead s).2.env.now)
  refine ⟨_, (timerRead s).1, last, (timerRead_timed s).trans hLoop, ?_, (Nat.add_le_add_right (timerRead_now s) us).trans hNow, hDiff⟩
  rw [List.getLast?_append]
  rfl

theorem readsOf_timers (p : InPin) (readings : List (BitVec 64)) (trace : List Event) :
    readsOf p (readings.map Event.timer ++ trace) = readsOf p trace := by
  induction readings with
  | nil => rfl
  | cons t rest ih => exact ih

theorem Timed.reads {s t : State} {readings : List (BitVec 64)} {last : BitVec 64} (h : Timed s t readings last) (p : InPin) :
    sampledBits p s t [] := by
  rw [sampledBits, h.trace, readsOf_timers]
  rfl

theorem delay_reads (us : Nat) (s : State) (p : InPin) : sampledBits p s (delay us s) [] := by
  obtain ⟨_, _, _, hTimed, -⟩ := delay_timed us s
  exact hTimed.reads p

/-! ## Poll -/

theorem pinRead_sampled (p : InPin) (s : State) : sampledBits p s (pinRead p s).2 [(pinRead p s).1] := by
  show readsOf p (.read p _ _ :: s.trace) = _
  rw [readsOf, if_pos rfl]
  rfl

theorem pinRead_unsampled {p q : InPin} (h : p ≠ q) (s : State) : sampledBits q s (pinRead p s).2 [] := by
  show readsOf q (.read p _ _ :: s.trace) = _
  rw [readsOf, if_neg h]
  rfl

/-- `samples` are those of a poll that answered `level`: zeros, then the answer; and it gave up only past `deadline`. -/
structure Polled (p : InPin) (deadline : Nat) (s t : State) (samples : List Bool) (level : Bool) : Prop where
  sampled : sampledBits p s t samples
  others : ∀ q, p ≠ q → sampledBits q s t []
  zeros : ∃ k, samples = List.replicate k false ++ [level]
  late : level = false → deadline ≤ t.env.now

theorem pinRead_polled {p : InPin} {deadline : Nat} {s : State} (h : (pinRead p s).1 = true) :
    Polled p deadline s (pinRead p s).2 [true] true where
  sampled := h ▸ pinRead_sampled p s
  others := fun _ hq => pinRead_unsampled hq s
  zeros := ⟨0, rfl⟩
  late := nofun

/-- A sample of 0 and a reading of the timer past the deadline. -/
theorem Timed.polled {p : InPin} {deadline : Nat} {s t : State} {readings : List (BitVec 64)} {last : BitVec 64}
    (h : (pinRead p s).1 = false) (hTimed : Timed (pinRead p s).2 t readings last) (hLate : deadline ≤ t.env.now) :
    Polled p deadline s t [false] false where
  sampled := sampledBits_trans (h ▸ pinRead_sampled p s) (hTimed.reads p)
  others := fun q hq => sampledBits_trans (pinRead_unsampled hq s) (hTimed.reads q)
  zeros := ⟨0, rfl⟩
  late := fun _ => hLate

/-- A sample of 0, a reading of the timer, and the rest of the poll. -/
theorem Polled.later {p : InPin} {deadline : Nat} {s t u : State} {readings : List (BitVec 64)} {last : BitVec 64} {samples : List Bool}
    {level : Bool} (h : (pinRead p s).1 = false) (hTimed : Timed (pinRead p s).2 t readings last)
    (hRest : Polled p deadline t u samples level) : Polled p deadline s u (false :: samples) level where
  sampled := sampledBits_trans (sampledBits_trans (h ▸ pinRead_sampled p s) (hTimed.reads p)) hRest.sampled
  others := fun q hq => sampledBits_trans (sampledBits_trans (pinRead_unsampled hq s) (hTimed.reads q)) (hRest.others q hq)
  zeros := by
    obtain ⟨k, hk⟩ := hRest.zeros
    exact ⟨k + 1, by rw [hk]; rfl⟩
  late := hRest.late

theorem pollLoop_polled (p : InPin) {before us : Nat} (k : Nat) {s : State} (h : before ≤ s.env.now) :
    ∃ samples, Polled p (before + us) s (pollLoop p (BitVec.ofNat 64 before) us k s).2 samples
      (pollLoop p (BitVec.ofNat 64 before) us k s).1 := by
  have hSampled : before ≤ (pinRead p s).2.env.now := h.trans_eq (pinRead_now p s).symm
  induction k generalizing s with
  | zero =>
    simp only [pollLoop]
    split
    next hOne => exact ⟨_, pinRead_polled hOne⟩
    next hZero => exact ⟨_, (timerReadPast_timed _ us _).polled (Bool.of_not_eq_true hZero) (timerReadPast_now hSampled)⟩
  | succ k ih =>
    have hLater : before ≤ (timerRead (pinRead p s).2).2.env.now := hSampled.trans (timerRead_now _)
    simp only [pollLoop]
    split
    next hOne => exact ⟨_, pinRead_polled hOne⟩
    next hZero =>
      split
      next hPast =>
        refine ⟨_, (timerRead_timed _).polled (Bool.of_not_eq_true hZero) ?_⟩
        rw [timerRead_reading] at hPast
        have hDiff := reading_sub_le hLater
        show before + us ≤ (timerRead (pinRead p s).2).2.env.now
        omega
      next =>
        obtain ⟨samples, hRest⟩ := ih hLater (hLater.trans_eq (pinRead_now p _).symm)
        exact ⟨_, hRest.later (Bool.of_not_eq_true hZero) (timerRead_timed _)⟩

/-- Everything a poll samples, and when it gives up. -/
theorem poll_polled (p : InPin) (us : Nat) (s : State) :
    ∃ samples, Polled p (s.env.now + us) s (poll p us s).2 samples (poll p us s).1 := by
  obtain ⟨samples, hPolled⟩ := pollLoop_polled (us := us) p ((timerRead s).2.env.patience (timerRead s).2.trace us)
    (Nat.le_refl (timerRead s).2.env.now)
  have hTimed := timerRead_timed s
  exact ⟨samples, sampledBits_trans (hTimed.reads p) hPolled.sampled, fun q hq => sampledBits_trans (hTimed.reads q) (hPolled.others q hq),
    hPolled.zeros, fun hLevel => (Nat.add_le_add_right (timerRead_now s) us).trans (hPolled.late hLevel)⟩

/-- Waiting leaves the Port as it was. -/
theorem Waited.port {s t : State} (h : Waited s t) : t.port = s.port := h.drives.port_of_cur h.cur

/-- Settles O38: the loops end past their deadlines (`delay_timed`, `poll_polled`), and waiting drives nothing (`Waited`). -/
theorem delayAndPoll : Obligations.DelayAndPoll := by
  refine ⟨fun s us hUs => ?_, fun s p us hp => ?_⟩
  · obtain ⟨readings, first, last, hTimed, hFirst, hNow, hDiff⟩ := delay_timed us s
    exact ⟨readings, first, last, hTimed.trace, hFirst, hTimed.last, hDiff hUs, hNow, hTimed.waited.pins, hTimed.waited.port⟩
  · obtain ⟨samples, hPolled⟩ := poll_polled p us s
    have hWaited := poll_waited hp us s
    refine ⟨samples, hPolled.sampled, ?_, hPolled.late, hWaited.writes, hWaited.pins, hWaited.port⟩
    obtain ⟨k, hk⟩ := hPolled.zeros
    rw [hk, List.length_append, List.length_replicate, List.length_singleton, Nat.add_sub_cancel]

/-! ## The handshake -/

/-- `t` is `s` after waiting and after `HWM_START` was driven to `levels`. -/
structure Handled (s t : State) (levels : List Bool) : Prop where
  drives : Drives s t
  cur : t.port.cur = s.port.cur
  count : pulsed s t 0
  droveTms : drove .tms s t []
  droveTdi : drove .tdi s t []
  droveHwm : drove .hwmStart s t levels
  pins : t.pins = { s.pins with hwmStart := lastLevel s.pins.hwmStart levels }

theorem Waited.handled {s t : State} (h : Waited s t) : Handled s t [] :=
  ⟨h.drives, h.cur, h.count, h.writes .tms, h.writes .tdi, h.writes .hwmStart, h.pins⟩

theorem pinWrite_handled (level : Bool) (s : State) : Handled s (pinWrite .hwmStart level s) [level] :=
  ⟨pinWrite_drives _ _ _, rfl, rfl, rfl, rfl, rfl, rfl⟩

theorem Handled.trans {s t u : State} {a b : List Bool} (x : Handled s t a) (y : Handled t u b) : Handled s u (a ++ b) where
  drives := x.drives.trans y.drives
  cur := y.cur.trans x.cur
  count := by
    have hx := x.count
    have hy := y.count
    unfold pulsed at *
    omega
  droveTms := drove_trans x.droveTms y.droveTms
  droveTdi := drove_trans x.droveTdi y.droveTdi
  droveHwm := drove_trans x.droveHwm y.droveHwm
  pins := by rw [y.pins, x.pins, lastLevel_append]

/-- The poll of `HWM_READY` in a handshake. -/
def readyPoll (s : State) : Bool × State := poll .hwmReady Config.hwmTimeoutUs (pinWrite .hwmStart true s)

/-- The state in which a handshake releases the module: after the pulse was held, or at once after a timeout. -/
def held (s : State) : State := if (readyPoll s).1 then delay Config.fusePulseHoldUs (readyPoll s).2 else (readyPoll s).2

/-- The poll of `HWM_END` in a handshake. -/
def endPoll (s : State) : Bool × State := poll .hwmEnd Config.hwmTimeoutUs (pinWrite .hwmStart false (held s))

/-- Everything a handshake can answer (46_efuse.md R152). -/
theorem handshake_cases (s : State) :
    ((readyPoll s).1 = false ∧ held s = (readyPoll s).2 ∧ handshake s = raiseError .timeoutReady (pinWrite .hwmStart false (held s))) ∨
      ((readyPoll s).1 = true ∧ held s = delay Config.fusePulseHoldUs (readyPoll s).2 ∧
        (((endPoll s).1 = false ∧ handshake s = raiseError .timeoutEnd (endPoll s).2) ∨
          ((endPoll s).1 = true ∧ handshake s = complete .nothing (endPoll s).2))) := by
  cases hReady : (readyPoll s).1 with
  | false =>
    have hHeld : held s = (readyPoll s).2 := by rw [held, hReady]; rfl
    exact .inl ⟨rfl, hHeld, hHeld ▸ if_pos hReady⟩
  | true =>
    have hHeld : held s = delay Config.fusePulseHoldUs (readyPoll s).2 := by rw [held, hReady]; rfl
    have hRelease : handshake s = if (endPoll s).1 = false then raiseError .timeoutEnd (endPoll s).2
        else complete .nothing (endPoll s).2 := by
      rw [endPoll, hHeld]
      refine if_neg fun h => ?_
      have hLow : (readyPoll s).1 = false := h
      rw [hReady] at hLow
      cases hLow
    refine .inr ⟨rfl, hHeld, ?_⟩
    cases hEnd : (endPoll s).1 with
    | false => exact .inl ⟨rfl, by rw [hRelease, hEnd]; rfl⟩
    | true => exact .inr ⟨rfl, by rw [hRelease, hEnd]; rfl⟩

theorem readyPoll_waited (s : State) : Waited (pinWrite .hwmStart true s) (readyPoll s).2 := poll_waited (by decide) _ _

theorem held_waited (s : State) : Waited (readyPoll s).2 (held s) := by
  unfold held
  split
  · exact delay_waited _ _
  · exact Waited.refl _

theorem endPoll_waited (s : State) : Waited (pinWrite .hwmStart false (held s)) (endPoll s).2 := poll_waited (by decide) _ _

theorem held_handled (s : State) : Handled s (held s) [true] :=
  (pinWrite_handled true s).trans ((readyPoll_waited s).handled.trans (held_waited s).handled)

/-- Whatever a handshake answers, it reports a state in which the module was asked once and released once. -/
theorem handshake_handled (s : State) :
    ∃ v, Handled s v [true, false] ∧ Waited (pinWrite .hwmStart false (held s)) v ∧
      (handshake s = complete .nothing v ∨ handshake s = raiseError .timeoutReady v ∨ handshake s = raiseError .timeoutEnd v) := by
  have hReleased : Handled s (pinWrite .hwmStart false (held s)) [true, false] := (held_handled s).trans (pinWrite_handled false _)
  have hEnded : Handled s (endPoll s).2 [true, false] := hReleased.trans (endPoll_waited s).handled
  rcases handshake_cases s with ⟨-, -, h⟩ | ⟨-, -, ⟨-, h⟩ | ⟨-, h⟩⟩
  · exact ⟨_, hReleased, Waited.refl _, .inr (.inl h)⟩
  · exact ⟨_, hEnded, endPoll_waited s, .inr (.inr h)⟩
  · exact ⟨_, hEnded, endPoll_waited s, .inl h⟩

/-! ## What a handshake samples -/

theorem held_reads (s : State) (p : InPin) : sampledBits p (readyPoll s).2 (held s) [] := by
  unfold held
  split
  · exact delay_reads _ _ p
  · rfl

theorem Polled.zeros_of_late {p : InPin} {deadline : Nat} {s t : State} {samples : List Bool}
    (h : Polled p deadline s t samples false) : samples ≠ [] ∧ ∀ x ∈ samples, x = false := by
  obtain ⟨k, rfl⟩ := h.zeros
  exact ⟨by simp, by simp⟩

theorem Polled.last_of_one {p : InPin} {deadline : Nat} {s t : State} {samples : List Bool}
    (h : Polled p deadline s t samples true) : samples.getLast? = some true := by
  obtain ⟨k, rfl⟩ := h.zeros
  simp

/-- The result says what the two pins read, and when (46_efuse.md R152 to R154). -/
theorem handshake_sampled (s : State) :
    ∃ ready ended : List Bool,
      sampledBits .hwmReady (pinWrite .hwmStart true s) (readyPoll s).2 ready ∧ sampledBits .hwmReady (readyPoll s).2 (handshake s) [] ∧
      sampledBits .hwmEnd s (held s) [] ∧ sampledBits .hwmEnd (pinWrite .hwmStart false (held s)) (handshake s) ended ∧
      (((handshake s).result = 0x01000103#32 ∧ ready ≠ [] ∧ (∀ x ∈ ready, x = false) ∧ ended = [] ∧
          s.env.now + Config.hwmTimeoutUs ≤ (readyPoll s).2.env.now) ∨
        ((handshake s).result = 0x01000203#32 ∧ ready.getLast? = some true ∧ (readyPoll s).2.env.now + 12 ≤ (held s).env.now ∧
          ended ≠ [] ∧ (∀ x ∈ ended, x = false) ∧ (held s).env.now + Config.hwmTimeoutUs ≤ (handshake s).env.now) ∨
        ((handshake s).result = okWord ∧ ready.getLast? = some true ∧ (readyPoll s).2.env.now + 12 ≤ (held s).env.now ∧
          ended.getLast? = some true)) := by
  obtain ⟨ready, hReady⟩ := poll_polled .hwmReady Config.hwmTimeoutUs (pinWrite .hwmStart true s)
  obtain ⟨ended, hEnd⟩ := poll_polled .hwmEnd Config.hwmTimeoutUs (pinWrite .hwmStart false (held s))
  have hStart := pinWrite_now .hwmStart true s
  have hRelease := pinWrite_now .hwmStart false (held s)
  change Polled _ _ _ (readyPoll s).2 ready (readyPoll s).1 at hReady
  change Polled _ _ _ (endPoll s).2 ended (endPoll s).1 at hEnd
  rw [hStart] at hReady
  rw [hRelease] at hEnd
  have hStarted : sampledBits .hwmEnd s (pinWrite .hwmStart true s) [] := rfl
  have hEndBefore : sampledBits .hwmEnd s (held s) [] :=
    sampledBits_trans hStarted (sampledBits_trans (hReady.others .hwmEnd (by decide)) (held_reads s .hwmEnd))
  have hReleased : sampledBits .hwmReady (readyPoll s).2 (pinWrite .hwmStart false (held s)) [] :=
    sampledBits_trans (held_reads s .hwmReady) (u := pinWrite .hwmStart false (held s)) rfl
  have hEnded : sampledBits .hwmReady (readyPoll s).2 (endPoll s).2 [] := sampledBits_trans hReleased (hEnd.others .hwmReady (by decide))
  have hHeld : (readyPoll s).1 = true → (readyPoll s).2.env.now + 12 ≤ (held s).env.now := fun hOne => by
    obtain ⟨_, _, _, -, -, hNow, -⟩ := delay_timed Config.fusePulseHoldUs (readyPoll s).2
    rw [held, if_pos hOne]
    exact hNow
  rcases handshake_cases s with ⟨hLevel, -, h⟩ | ⟨hLevel, -, ⟨hLevel', h⟩ | ⟨hLevel', h⟩⟩
  · rw [hLevel] at hReady
    obtain ⟨hSome, hZeros⟩ := hReady.zeros_of_late
    rw [h]
    exact ⟨ready, [], hReady.sampled, hReleased, hEndBefore, rfl, .inl ⟨rfl, hSome, hZeros, rfl, hReady.late rfl⟩⟩
  · rw [hLevel] at hReady
    rw [hLevel'] at hEnd
    obtain ⟨hSome, hZeros⟩ := hEnd.zeros_of_late
    rw [h]
    exact ⟨ready, ended, hReady.sampled, hEnded, hEndBefore, hEnd.sampled, .inr (.inl ⟨rfl, hReady.last_of_one, hHeld hLevel, hSome,
      hZeros, hEnd.late rfl⟩)⟩
  · rw [hLevel] at hReady
    rw [hLevel'] at hEnd
    rw [h]
    exact ⟨ready, ended, hReady.sampled, hEnded, hEndBefore, hEnd.sampled, .inr (.inr ⟨rfl, hReady.last_of_one, hHeld hLevel,
      hEnd.last_of_one⟩)⟩

/-! ## The reference module (60_exceptions.md R195) -/

/-- A poll whose pin reads 1 at its first sample answers at once. -/
theorem poll_at_once {p : InPin} {us : Nat} {s : State} (h : (pinRead p (timerRead s).2).1 = true) :
    poll p us s = (true, (pinRead p (timerRead s).2).2) := by
  rw [poll]
  generalize (timerRead s).2.env.patience (timerRead s).2.trace us = k
  cases k <;> rw [pollLoop, if_pos h]

/-- The module of an environment. -/
def Env.module (e : Env) : Option Hwm := e.bench.map Bench.hwm

theorem sample_hwmReady {e : Env} {m : Hwm} (h : e.module = some m) (pins : Pins) (trace : List Event) :
    e.sample pins trace .hwmReady = (pins.hwmStart && elapsedSince e.now m.startedAt m.tReady) := by
  obtain ⟨b, hBench, rfl⟩ := Option.map_eq_some_iff.mp h
  rw [Env.sample, hBench]

theorem sample_hwmEnd {e : Env} {m : Hwm} (h : e.module = some m) (pins : Pins) (trace : List Event) :
    e.sample pins trace .hwmEnd = elapsedSince e.now m.releasedAt m.tEnd := by
  obtain ⟨b, hBench, rfl⟩ := Option.map_eq_some_iff.mp h
  rw [Env.sample, hBench]

theorem pinWrite_start_module {s : State} {m : Hwm} (h : s.env.module = some m) :
    (pinWrite .hwmStart true s).env.module = some { m with startedAt := some s.env.now, readySeen := false, releasedAt := none } := by
  obtain ⟨b, hBench, rfl⟩ := Option.map_eq_some_iff.mp h
  show (Env.hwmStart s.env true).module = _
  rw [Env.hwmStart, hBench]
  rfl

theorem pinWrite_release_module {s : State} {m : Hwm} (h : s.env.module = some m) (hSeen : m.readySeen = true) :
    (pinWrite .hwmStart false s).env.module = some { m with startedAt := none, releasedAt := some s.env.now } := by
  obtain ⟨b, hBench, rfl⟩ := Option.map_eq_some_iff.mp h
  show (Env.hwmStart s.env false).module = _
  rw [Env.hwmStart, hBench]
  simp only [hSeen, if_true]
  rfl

theorem pinRead_ready_module {s : State} {m : Hwm} (h : s.env.module = some m) :
    (pinRead .hwmReady s).2.env.module = some { m with readySeen := m.readySeen || (pinRead .hwmReady s).1 } := by
  obtain ⟨b, hBench, rfl⟩ := Option.map_eq_some_iff.mp h
  show (s.env.sampled .hwmReady (pinRead .hwmReady s).1).module = _
  rw [Env.sampled, hBench]
  cases (pinRead .hwmReady s).1 <;> simp [Env.module, hBench]

@[simp] theorem timerRead_module (s : State) : (timerRead s).2.env.module = s.env.module := rfl
@[simp] theorem timerReadPast_module (t0 : BitVec 64) (us : Nat) (s : State) : (timerReadPast t0 us s).2.env.module = s.env.module := rfl

theorem delayLoop_module (t0 : BitVec 64) (us k : Nat) (s : State) : (delayLoop t0 us k s).env.module = s.env.module := by
  induction k generalizing s with
  | zero => rfl
  | succ k ih =>
    simp only [delayLoop]
    split
    · rfl
    · exact ih _

theorem delay_module (us : Nat) (s : State) : (delay us s).env.module = s.env.module := delayLoop_module _ _ _ _

/-- With a module that answers at once, both pins read 1 at their first sample. -/
theorem handshake_of_prompt_module {s : State} {m : Hwm} (h : s.env.module = some m) (hReadyAt : m.tReady = some 0)
    (hEndAt : m.tEnd = some 0) : (handshake s).result = okWord := by
  have hAsked := pinWrite_start_module h
  have hReady : (pinRead .hwmReady (timerRead (pinWrite .hwmStart true s)).2).1 = true := by
    refine (sample_hwmReady ((timerRead_module _).trans hAsked) _ _).trans ?_
    have hNow : s.env.now ≤ (timerRead (pinWrite .hwmStart true s)).2.env.now :=
      (pinWrite_now .hwmStart true s).ge.trans (timerRead_now _)
    rw [hReadyAt]
    exact Bool.and_eq_true_iff.mpr ⟨rfl, decide_eq_true hNow⟩
  have hPoll : readyPoll s = (true, (pinRead .hwmReady (timerRead (pinWrite .hwmStart true s)).2).2) := poll_at_once hReady
  have hSeen := pinRead_ready_module ((timerRead_module _).trans hAsked)
  have hHeld : held s = delay Config.fusePulseHoldUs (readyPoll s).2 := by rw [held, hPoll]; rfl
  have hModule : (held s).env.module = some { m with startedAt := some s.env.now, readySeen := true, releasedAt := none } := by
    rw [hHeld, delay_module, hPoll]
    refine hSeen.trans ?_
    rw [hReady]
    rfl
  have hReleased := pinWrite_release_module hModule rfl
  have hEnd : (pinRead .hwmEnd (timerRead (pinWrite .hwmStart false (held s))).2).1 = true := by
    have hSample := sample_hwmEnd ((timerRead_module _).trans hReleased) (timerRead (pinWrite .hwmStart false (held s))).2.pins
      (timerRead (pinWrite .hwmStart false (held s))).2.trace
    refine hSample.trans ?_
    have hNow : (held s).env.now ≤ (timerRead (pinWrite .hwmStart false (held s))).2.env.now :=
      (pinWrite_now .hwmStart false (held s)).ge.trans (timerRead_now _)
    rw [hEndAt]
    exact decide_eq_true hNow
  have hEndPoll : (endPoll s).1 = true := congrArg Prod.fst (poll_at_once hEnd)
  rcases handshake_cases s with ⟨hLevel, -⟩ | ⟨-, -, ⟨hLevel, -⟩ | ⟨-, hAnswer⟩⟩
  · rw [hPoll] at hLevel; cases hLevel
  · rw [hEndPoll] at hLevel; cases hLevel
  · rw [hAnswer]
    rfl

/-- A module that never answers leaves `HWM_READY` at 0 for the whole poll. -/
theorem pollLoop_of_silent_module {s : State} {m : Hwm} (h : s.env.module = some m) (hSilent : m.tReady = none) (t0 : BitVec 64)
    (us k : Nat) : (pollLoop .hwmReady t0 us k s).1 = false := by
  have hZero : (pinRead .hwmReady s).1 = false := by
    refine (sample_hwmReady h _ _).trans ?_
    rw [hSilent]
    cases m.startedAt <;> exact Bool.and_false _
  have hNext := pinRead_ready_module h
  induction k generalizing s m with
  | zero => simp only [pollLoop, hZero, Bool.false_eq_true, if_false]
  | succ k ih =>
    simp only [pollLoop, hZero, Bool.false_eq_true, if_false]
    split
    · rfl
    · have hLater := (timerRead_module (pinRead .hwmReady s).2).trans hNext
      refine ih hLater hSilent ?_ (pinRead_ready_module hLater)
      refine (sample_hwmReady hLater _ _).trans ?_
      rw [hSilent]
      cases m.startedAt <;> exact Bool.and_false _

theorem handshake_of_silent_module {s : State} {m : Hwm} (h : s.env.module = some m) (hSilent : m.tReady = none) :
    (handshake s).result = 0x01000103#32 := by
  have hPoll : (readyPoll s).1 = false :=
    pollLoop_of_silent_module ((timerRead_module _).trans (pinWrite_start_module h)) hSilent _ _ _
  rcases handshake_cases s with ⟨-, -, hAnswer⟩ | ⟨hLevel, -⟩
  · rw [hAnswer]
    rfl
  · rw [hPoll] at hLevel; cases hLevel

theorem report_fields {t v : State} (h : t = complete .nothing v ∨ t = raiseError .timeoutReady v ∨ t = raiseError .timeoutEnd v) :
    t.fault = v.fault ∧ t.port = v.port ∧ t.pins = v.pins ∧ t.trace = v.trace ∧ t.returned = .nothing := by
  rcases h with rfl | rfl | rfl <;> exact ⟨rfl, rfl, rfl, rfl, rfl⟩

/-- Settles O41: the account of the whole handshake (`handshake_handled`), what its polls sampled (`handshake_sampled`), and the reference
module. The plain name is the model's function. -/
theorem handshake_holds : Obligations.Handshake := by
  intro s
  obtain ⟨v, hHandled, hWaited, hAnswer⟩ := handshake_handled s
  obtain ⟨hFault, hPort, hPins, hTrace, -⟩ := report_fields hAnswer
  obtain ⟨ready, ended, hReady, hReadyAfter, hEndBefore, hEnded, hResult⟩ := handshake_sampled s
  have hModule : ∀ b, s.env.bench = some b → s.env.module = some b.hwm := fun b hBench => by rw [Env.module, hBench]; rfl
  simp only [pulsed, drove, traceGrows, hTrace, hFault, hPort, hPins]
  refine ⟨hHandled.drives.fault, hHandled.count, hHandled.drives.port_of_cur hHandled.cur, hHandled.droveTms, hHandled.droveTdi,
    hHandled.droveHwm, hHandled.pins, ?_, fun b hBench => ⟨handshake_of_prompt_module (hModule b hBench),
      handshake_of_silent_module (hModule b hBench)⟩⟩
  exact ⟨ready, ended, (readyPoll_waited s).drives.grows, (held_waited s).drives.grows, hWaited.drives.grows,
    (readyPoll_waited s).writes .hwmStart, (held_waited s).writes .hwmStart, hWaited.writes .hwmStart, hReady, hReadyAfter, hEndBefore,
    hEnded, hResult⟩

end Sys2Proof.Machine
end

section
/-! PROOF. The fixed sequences of the protocol layer (30_encoding.md R86, 43_executor.md R127): what a sequence built from `TLR`, `IDLE`,
`LOADIR` and `DRSCAN` drives on TMS and TDI when it runs, and which of its samples its buffers hold afterwards. -/

namespace Sys2Proof.Machine

open Sys2Proof

/-! ## Buffers filled with a value -/

/-- The buffer of a scan that drives an n-bit value (20_memory.md R53). -/
def filledBuffer (n value : Nat) : Memory := (newBuffer (bytesFor n)).setBytes 0 (natBytes (bytesFor n) (value % 2 ^ n))

@[simp] theorem filledBuffer_size (n value : Nat) : (filledBuffer n value).size = bytesFor n := Memory.setBytes_size _ _ _

theorem filledBuffer_wf (n value : Nat) : (filledBuffer n value).wf = true := Memory.setBytes_wf (newBuffer_wf _) _ _

theorem filledBuffer_stream (n value : Nat) : (filledBuffer n value).stream n = natBits n value := by
  refine List.map_congr_left fun i hi => ?_
  have hIn : i < n := List.mem_range.mp hi
  have hByte : i / 8 < bytesFor n := by unfold bytesFor; omega
  have hBit : i < 8 * bytesFor n := by unfold bytesFor; omega
  have hFits : 0 + (natBytes (bytesFor n) (value % 2 ^ n)).length ≤ (newBuffer (bytesFor n)).size := by
    rw [natBytes_length, newBuffer_size, Nat.zero_add]
  rw [Memory.bitAt, filledBuffer, Memory.setBytes_byteAt (newBuffer_wf _) hFits, natBytes_length, if_pos (by omega), Nat.sub_zero,
    natBytes_bit, Nat.testBit_mod_two_pow, decide_eq_true hBit, decide_eq_true hIn, Bool.true_and, Bool.true_and]

/-- A scan of a value: its word, its filled buffer and, when it captures, a zero-filled one. -/
theorem addShift_fillBuffer (v : Seq) (dir : Dir) (fill : Bool) (n value : Nat) (wantTdo : Bool) (exit : TapState) :
    (v.addShift dir fill n true wantTdo exit).fillBuffer v.pool.length n value =
      { v with
        cmds := v.cmds ++ [encodeShift dir n (.buf v.pool.length) (v.tdoOf true wantTdo) exit]
        pool := v.pool ++ filledBuffer n value :: List.replicate wantTdo.toNat (newBuffer (bytesFor n)) } := by
  have hPool : (v.addShift dir fill n true wantTdo exit).pool =
      v.pool ++ newBuffer (bytesFor n) :: List.replicate wantTdo.toNat (newBuffer (bytesFor n)) := by
    rw [Seq.addShift, wantCount, Bool.toNat_true, Nat.add_comm, List.replicate_succ]
  have hAt : (v.addShift dir fill n true wantTdo exit).pool[v.pool.length]? = some (newBuffer (bytesFor n)) := by
    rw [hPool, List.getElem?_append_right (Nat.le_refl _), Nat.sub_self]
    rfl
  have hFits : 0 + (natBytes (bytesFor n) (value % 2 ^ n)).length ≤ (newBuffer (bytesFor n)).size := by
    rw [natBytes_length, newBuffer_size, Nat.zero_add]
  have hWrite : memWrite (v.addShift dir fill n true wantTdo exit).pool v.pool.length 0 (natBytes (bytesFor n) (value % 2 ^ n)) =
      some (v.pool ++ filledBuffer n value :: List.replicate wantTdo.toNat (newBuffer (bytesFor n))) := by
    rw [memWrite, hAt]
    simp only [if_pos hFits]
    rw [hPool, List.set_append_right _ _ (Nat.le_refl _), Nat.sub_self]
    rfl
  rw [Seq.fillBuffer, hWrite]
  rfl

/-! ## What a fixed sequence does when it runs -/

/-- Some samples of a run that a buffer of its sequence takes: `bits` of them, from `offset` on. -/
structure Capture where
  handle : Nat
  offset : Nat
  bits : Nat

/-- `t` is `s` after the words of a fixed sequence ran. -/
structure Played (s t : State) (cur : TapState) (tms tdi : List Bool) (captures : List Capture) (samples : List Bool) : Prop where
  ran : Ran s t tms tdi samples
  cur : t.port.cur = cur
  kept : ∀ h, (∀ c ∈ captures, c.handle ≠ h) → t.pseq.pool[h]? = s.pseq.pool[h]?
  stored : ∀ c ∈ captures, pseqStream c.handle c.bits t = (samples.drop c.offset).take c.bits

/-- From the Port `p`, the words of `v` run to `cur` with these TMS and TDI bits and captures, wherever they find the buffers of `v`. -/
structure Plays (p : Port) (v : Seq) (cur : TapState) (tms tdi : List Bool) (captures : List Capture) : Prop where
  bound : ∀ c ∈ captures, c.handle < v.pool.length ∧ c.offset + c.bits ≤ tms.length
  runs : ∀ s : State, s.ready → s.exec.seq = none → s.port = p → (∀ h < v.pool.length, s.pseq.pool[h]? = v.pool[h]?) →
    ∃ samples, Played s (runWords v.cmds s) cur tms tdi captures samples

theorem Plays.empty (p : Port) : Plays p Seq.empty p.cur [] [] [] where
  bound := nofun
  runs := fun s _ _ hPort _ => ⟨[], Ran.refl s, congrArg Port.cur hPort, fun _ _ => rfl, nofun⟩

theorem storeCapture_pseq_of_fixed {s : State} (hRun : s.exec.seq = none) (tdo : Option Nat) (bits : List Bool) :
    (storeCapture tdo bits s).pseq = { s.pseq with pool := capturePool tdo bits s.pseq.pool } := by
  rcases storeCapture_cases tdo bits s with ⟨h, hPool⟩ | ⟨q, v, hSome, -, -⟩ | ⟨-, h⟩
  · rw [curSeq_fixed hRun] at hPool
    rw [h, hPool]
  · rw [hRun] at hSome
    cases hSome
  · rw [h]
    rfl

/-- The next word of a fixed sequence that has run so far. -/
theorem Played.next {s t : State} {cur : TapState} {tms tdi samples : List Bool} {captures : List Capture}
    (h : Played s t cur tms tdi captures samples) (hReady : s.ready) (hRun : s.exec.seq = none) {w : Word64}
    (hLegal : wordLegal t.pseq w = true) :
    ∃ samples' u, advancePc (wordBody w t) = u ∧ u.fault = none ∧
      Ran s u (tms ++ wordTms (s.port.withCur cur) w) (tdi ++ wordTdi s.port t.pseq w) (samples ++ samples') ∧
      samples'.length = (wordTms (s.port.withCur cur) w).length ∧
      u.port.cur = (commandPulses s.port cur w).2 ∧
      u.pseq.pool = capturePool (wordTdo w) (wordCaptured (s.port.withCur cur) w samples') t.pseq.pool := by
  have hFixed : t.exec.seq = none := h.ran.stores.seq.trans hRun
  have hPort : t.port = s.port.withCur cur := h.ran.port.trans (by rw [h.cur])
  have hTdi : wordTdi (s.port.withCur cur) t.pseq w = wordTdi s.port t.pseq w := rfl
  rw [← curSeq_fixed hFixed] at hLegal
  obtain ⟨samples', u, hWord, hRan, hCur, -, hPseq⟩ := advanced_word (h.ran.ready hReady) hLegal
  rw [curSeq_fixed hFixed, hPort, hTdi] at hRan
  rw [hPort] at hCur
  rw [storeCapture_pseq_of_fixed hFixed, hPort] at hPseq
  exact ⟨samples', u, hWord, hRan.fault.trans (h.ran.ready hReady).2, h.ran.trans hRan, hRan.clocked.sampledCount, hCur, by rw [hPseq]⟩

theorem runWords_snoc {words : List Word64} {s : State} (hLive : (runWords words s).fault = none) {w : Word64} {u : State}
    (hWord : advancePc (wordBody w (runWords words s)) = u) (hNext : u.fault = none) : runWords (words ++ [w]) s = u := by
  rw [runWords_append hLive, runWords_cons_live (hWord ▸ hNext), hWord]
  rfl

/-! ## A SETSTATE word -/

section

variable {p : Port} {v : Seq} {cur : TapState} {tms tdi : List Bool} {captures : List Capture}

theorem Plays.addState (h : Plays p v cur tms tdi captures) {st : TapState} {idle : Nat} (hIdle : idle < 2 ^ 32)
    (hStable : idle = 0 ∨ st.stable = true) :
    Plays p (v.addState st idle) st (tms ++ (navBits cur st ++ List.replicate idle st.holdTms)) tdi captures where
  bound := fun c hc => by
    obtain ⟨hHandle, hOffset⟩ := h.bound c hc
    exact ⟨hHandle, by rw [List.length_append]; omega⟩
  runs := fun s hReady hRun hPort hPool => by
    subst hPort
    obtain ⟨samples, hPlayed⟩ := h.runs s hReady hRun rfl hPool
    have hWord := decodeCommand_encodeSetState (st := st) hIdle
    have hLegal : wordLegal (runWords v.cmds s).pseq (encodeSetState st idle) = true :=
      (wordLegal_setState _ _ _ hWord).trans (setStateLegal_iff.mpr ⟨hIdle, hStable⟩)
    obtain ⟨samples', u, hNext, hLive, hRan, hCount, hCur, hMem⟩ := hPlayed.next hReady hRun hLegal
    obtain ⟨-, hTms, hTdi, hTdo, -, hPulses⟩ := setState_word hWord (s.port.withCur cur) (runWords v.cmds s).pseq s samples'
    have hTdi' : wordTdi s.port (runWords v.cmds s).pseq (encodeSetState st idle) = [] := hTdi
    have hCur' : u.port.cur = st := hCur.trans (congrArg Prod.snd hPulses)
    rw [hTms, hTdi', List.append_nil] at hRan
    rw [hTdo] at hMem
    have hStreams : ∀ k n, pseqStream k n u = pseqStream k n (runWords v.cmds s) := fun k n => by
      rw [pseqStream, hMem]
      rfl
    rw [Seq.addState, runWords_snoc (hPlayed.ran.ready hReady).2 hNext hLive]
    refine ⟨samples ++ samples', hRan, hCur', fun k hk => ?_, fun c hc => ?_⟩
    · rw [hMem]
      exact hPlayed.kept k hk
    · have hOffset := (h.bound c hc).2
      have hSampled := hPlayed.ran.clocked.sampledCount
      rw [hStreams, hPlayed.stored c hc, List.drop_append_of_le_length (by omega),
        List.take_append_of_le_length (by rw [List.length_drop]; omega)]

/-! ## A SHIFT word -/

/-- Buffer `k` of `v'` is new since `v`, and `n` bits fit it. -/
def newBufferAt (v v' : Seq) (n k : Nat) : Prop :=
  v.pool.length ≤ k ∧ k < 2 ^ 16 ∧ ∃ m, v'.pool[k]? = some m ∧ m.wf = true ∧ bytesFor n ≤ m.size

/-- What a SHIFT word captures, when it starts after `before` clocks of the sequence. -/
def shiftCaptures (p : Port) (cur : TapState) (dir : Dir) (n before : Nat) (tdo : Option Nat) : List Capture :=
  (tdo.map fun k => ⟨k, before + (enterPulses cur dir + p.prePad dir), n⟩).toList

theorem commandBits_congr {v v' : Seq} {n : Nat} {tdi : TdiSource} (h : ∀ k, tdi = .buf k → v'.pool[k]? = v.pool[k]?) :
    commandBits v' n tdi = commandBits v n tdi := by
  cases tdi with
  | fill b => rfl
  | buf k => rw [commandBits, commandBits, h k rfl]

theorem Plays.shift (h : Plays p v cur tms tdi captures) {v' : Seq} {dir : Dir} {n : Nat} {source : TdiSource} {tdo : Option Nat}
    (hCmds : v'.cmds = v.cmds ++ [encodeShift dir n source tdo .idle]) (hMore : v.pool.length ≤ v'.pool.length)
    (hOld : ∀ k < v.pool.length, v'.pool[k]? = v.pool[k]?) (hPos : 1 ≤ n) (hMax : n < 2 ^ 23)
    (hSource : ∀ k, source = .buf k → newBufferAt v v' n k) (hTarget : ∀ k, tdo = some k → newBufferAt v v' n k) :
    Plays p v' .idle (tms ++ commandTms (p.withCur cur) dir n .idle) (tdi ++ paddedStream p dir (commandBits v' n source))
      (captures ++ shiftCaptures p cur dir n tms.length tdo) where
  bound := fun c hc => by
    rw [List.length_append]
    rcases List.mem_append.mp hc with hc | hc
    · obtain ⟨hHandle, hOffset⟩ := h.bound c hc
      omega
    · obtain ⟨k, hk, rfl⟩ := Option.map_eq_some_iff.mp (Option.mem_toList.mp hc)
      obtain ⟨-, -, m, hMem, -, -⟩ := hTarget k hk
      have hCovers := commandTms_covers (p.withCur cur) dir n .idle
      have hPads : (p.withCur cur).prePad dir = p.prePad dir := by cases dir <;> rfl
      rw [hPads, Port.withCur_cur] at hCovers
      exact ⟨(List.getElem?_eq_some_iff.mp hMem).1, by simp only []; omega⟩
  runs := fun s hReady hRun hPort hPool => by
    subst hPort
    obtain ⟨samples, hPlayed⟩ := h.runs s hReady hRun rfl fun k hk => (hPool k (hk.trans_le hMore)).trans (hOld k hk)
    have hFresh : ∀ k, newBufferAt v v' n k → (runWords v.cmds s).pseq.pool[k]? = v'.pool[k]? := fun k hk => by
      obtain ⟨hNew, -, m, hMem, -, -⟩ := hk
      refine (hPlayed.kept k fun c hc hEq => ?_).trans (hPool k (List.getElem?_eq_some_iff.mp hMem).1)
      exact absurd (h.bound c hc).1 (by omega)
    have hFits : source.fits = true ∧ tdoFits tdo = true := by
      refine ⟨?_, ?_⟩
      · cases source with
        | fill b => rfl
        | buf k => exact decide_eq_true (hSource k rfl).2.1
      · cases tdo with
        | none => rfl
        | some k => exact decide_eq_true (hTarget k rfl).2.1
    have hWord := decodeCommand_encodeShift (dir := dir) hMax hFits.1 hFits.2 .idle
    have hLive : ∀ k, newBufferAt v v' n k → k < 2 ^ 16 ∧ ∃ m, (runWords v.cmds s).pseq.pool[k]? = some m ∧ bytesFor n ≤ m.size :=
      fun k hk => by
        obtain ⟨-, hWidth, m, hMem, -, hSize⟩ := id hk
        exact ⟨hWidth, m, (hFresh k hk).trans hMem, hSize⟩
    have hLegal : wordLegal (runWords v.cmds s).pseq (encodeShift dir n source tdo .idle) = true :=
      (wordLegal_shift _ hWord).trans (shiftLegal_iff.mpr ⟨hPos, hMax, fun k hk => hLive k (hSource k hk),
        fun k hk => hLive k (hTarget k hk)⟩)
    obtain ⟨samples', u, hNext, hLiveNext, hRan, hCount, hCur, hMem⟩ := hPlayed.next hReady hRun hLegal
    obtain ⟨-, hTms, hTdi, hTdo, hCaptured, hPulses⟩ :=
      shift_word hWord (s.port.withCur cur) (runWords v.cmds s).pseq s samples'
    have hTdi' : wordTdi s.port (runWords v.cmds s).pseq (encodeShift dir n source tdo .idle) =
        paddedStream s.port dir (commandBits v' n source) := by
      refine hTdi.trans ?_
      rw [commandBits_congr fun k hk => hFresh k (hSource k hk)]
      cases dir <;> rfl
    have hPads : (s.port.withCur cur).prePad dir = s.port.prePad dir := by cases dir <;> rfl
    have hCur' : u.port.cur = .idle := hCur.trans (congrArg Prod.snd hPulses)
    rw [hTms] at hRan hCount
    rw [hTdi'] at hRan
    rw [hTdo, hCaptured, hPads, Port.withCur_cur] at hMem
    have hSampled := hPlayed.ran.clocked.sampledCount
    have hCovers := commandTms_covers (s.port.withCur cur) dir n .idle
    rw [hPads, Port.withCur_cur] at hCovers
    rw [hCmds, runWords_snoc (hPlayed.ran.ready hReady).2 hNext hLiveNext]
    refine ⟨samples ++ samples', hRan, hCur', fun k hk => ?_, fun c hc => ?_⟩
    · rw [hMem, capturePool_other]
      · exact hPlayed.kept k fun c hc => hk c (List.mem_append_left _ hc)
      · rintro rfl
        exact hk _ (List.mem_append_right _ (Option.mem_toList.mpr rfl)) rfl
    · rcases List.mem_append.mp hc with hc | hc
      · obtain ⟨hHandle, hOffset⟩ := h.bound c hc
        have hKept : pseqStream c.handle c.bits u = pseqStream c.handle c.bits (runWords v.cmds s) := by
          rw [pseqStream, hMem, capturePool_other]
          · rfl
          · intro hSame
            exact absurd (hTarget _ hSame).1 (by omega)
        rw [hKept, hPlayed.stored c hc, List.drop_append_of_le_length (by omega),
          List.take_append_of_le_length (by rw [List.length_drop]; omega)]
      · obtain ⟨k, hk, rfl⟩ := Option.map_eq_some_iff.mp (Option.mem_toList.mp hc)
        subst hk
        obtain ⟨-, -, m, hAt, hWf, hSize⟩ := hTarget k rfl
        have hLength : ((samples'.drop (enterPulses cur dir + s.port.prePad dir)).take n).length = n := by
          rw [List.length_take, List.length_drop]
          omega
        have hStream := Memory.stream_setStream hWf (bits := (samples'.drop (enterPulses cur dir + s.port.prePad dir)).take n)
          (by rw [hLength]; exact hSize)
        rw [hLength] at hStream
        have hStored := capturePool_same ((hFresh k (hTarget k rfl)).trans hAt)
          ((samples'.drop (enterPulses cur dir + s.port.prePad dir)).take n)
        rw [pseqStream, hMem, hStored, Option.getD_some, hStream]
        show _ = ((samples ++ samples').drop (tms.length + _)).take n
        rw [← hSampled, List.drop_length_add_append]

/-! ## The steps of the protocol layer's sequences -/

/-- The TMS bits into the shift state of a direction: none when already there. -/
def enterTms (cur : TapState) (dir : Dir) : List Bool := if cur = dir.shiftState then [] else (navEntry cur dir.shiftState).walk

theorem enterTms_length (cur : TapState) (dir : Dir) : (enterTms cur dir).length = enterPulses cur dir := by
  unfold enterTms enterPulses
  split
  · rfl
  · rw [← navBits_eq_walk, navBits_length]

theorem commandTms_idle (p : Port) (dir : Dir) {n : Nat} (hPos : 1 ≤ n) :
    commandTms p dir n .idle = scanTms (enterTms p.cur dir) (paddedBits p dir n) := by
  have hOut : (if (.idle : TapState) = dir.shiftState ∨ (.idle : TapState) = dir.exit1State then [] else navBits dir.exit1State .idle) =
      [true, false] := by cases dir <;> decide
  have hLeave : decide ((.idle : TapState) ≠ dir.shiftState) = true := by cases dir <;> decide
  have hShift : 1 ≤ paddedBits p dir n := by rw [paddedBits]; omega
  rw [commandTms, hOut, hLeave, shiftTms_eq _ hShift, scanTms, enterTms, ← navBits_eq_walk]
  simp only [List.append_assoc]

/-- The pads of a direction together. -/
def Port.pads (p : Port) (dir : Dir) : Nat := p.prePad dir + p.postPad dir

theorem Port.pads_ir (p : Port) : p.pads .ir = p.irPads := rfl
theorem Port.pads_dr (p : Port) : p.pads .dr = p.drPads := rfl

/-- The TMS bits of a scan that ends in `Idle`, from state `cur`. -/
def scanFrom (p : Port) (cur : TapState) (dir : Dir) (n : Nat) : List Bool := scanTms (enterTms cur dir) (p.pads dir + n)

theorem scanFrom_eq (p : Port) (cur : TapState) (dir : Dir) {n : Nat} (hPos : 1 ≤ n) :
    commandTms (p.withCur cur) dir n .idle = scanFrom p cur dir n := by
  have hBits : paddedBits (p.withCur cur) dir n = p.pads dir + n := by
    cases dir <;> (unfold paddedBits Port.pads; simp only [Port.prePad, Port.postPad, Port.withCur]; omega)
  rw [commandTms_idle _ _ hPos, hBits]
  rfl

theorem Plays.tlr (h : Plays p v cur tms tdi captures) : Plays p v.tlr .reset (tms ++ [true, true, true, true, true]) tdi captures := by
  have hWord := h.addState (st := .reset) (idle := 0) (by decide) (.inl rfl)
  exact hWord

theorem Plays.idleFor (h : Plays p v .idle tms tdi captures) {n : Nat} (hFits : n < 2 ^ 32) :
    Plays p (v.idleFor n) .idle (tms ++ List.replicate n false) tdi captures := by
  have hWord := h.addState (st := .idle) (idle := n) hFits (.inr rfl)
  exact hWord

/-- A scan of a value (46_efuse.md R147), for both directions. -/
theorem Plays.scan (h : Plays p v cur tms tdi captures) (dir : Dir) {n : Nat} (hPos : 1 ≤ n) (hMax : n < 2 ^ 23) (value : Nat)
    (wantTdo : Bool) (hRoom : v.pool.length + 1 < 2 ^ 16) :
    Plays p ((v.addShift dir false n true wantTdo .idle).fillBuffer v.pool.length n value) .idle (tms ++ scanFrom p cur dir n)
      (tdi ++ scanBits p dir n value) (captures ++ shiftCaptures p cur dir n tms.length (v.tdoOf true wantTdo)) := by
  rw [addShift_fillBuffer]
  have hSourceAt : (v.pool ++ filledBuffer n value :: List.replicate wantTdo.toNat (newBuffer (bytesFor n)))[v.pool.length]? =
      some (filledBuffer n value) := by
    rw [List.getElem?_append_right (Nat.le_refl _), Nat.sub_self]
    rfl
  have hShift := h.shift (dir := dir) (n := n) (source := .buf v.pool.length) (tdo := v.tdoOf true wantTdo)
    (v' := { v with
      cmds := v.cmds ++ [encodeShift dir n (.buf v.pool.length) (v.tdoOf true wantTdo) .idle]
      pool := v.pool ++ filledBuffer n value :: List.replicate wantTdo.toNat (newBuffer (bytesFor n)) })
    rfl (by simp) (fun k hk => List.getElem?_append_left hk) hPos hMax
    (fun k hk => by
      cases hk
      exact ⟨Nat.le_refl _, by omega, _, hSourceAt, filledBuffer_wf n value, (filledBuffer_size n value).ge⟩)
    (fun k hk => by
      cases wantTdo with
      | false => cases hk
      | true =>
        cases hk
        refine ⟨by simp, by simpa using hRoom, newBuffer (bytesFor n), ?_, newBuffer_wf _, (newBuffer_size _).ge⟩
        rw [List.getElem?_append_right (by simp)]
        simp)
  have hBits : commandBits { v with
      cmds := v.cmds ++ [encodeShift dir n (.buf v.pool.length) (v.tdoOf true wantTdo) .idle]
      pool := v.pool ++ filledBuffer n value :: List.replicate wantTdo.toNat (newBuffer (bytesFor n)) } n (.buf v.pool.length) =
      natBits n value := by
    rw [commandBits, hSourceAt]
    exact filledBuffer_stream n value
  rw [hBits, scanFrom_eq p cur dir hPos] at hShift
  exact hShift

/-- A scan of a constant. -/
theorem Plays.scanFill (h : Plays p v cur tms tdi captures) (dir : Dir) {n : Nat} (hPos : 1 ≤ n) (hMax : n < 2 ^ 23) (ones wantTdo : Bool)
    (hRoom : v.pool.length < 2 ^ 16) :
    Plays p (v.addShift dir ones n false wantTdo .idle) .idle (tms ++ scanFrom p cur dir n)
      (tdi ++ paddedStream p dir (List.replicate n ones)) (captures ++ shiftCaptures p cur dir n tms.length (v.tdoOf false wantTdo)) := by
  have hShift := h.shift (dir := dir) (n := n) (source := .fill ones) (tdo := v.tdoOf false wantTdo)
    (v' := v.addShift dir ones n false wantTdo .idle)
    rfl (by simp [Seq.addShift]) (fun k hk => List.getElem?_append_left hk) hPos hMax nofun
    (fun k hk => by
      cases wantTdo with
      | false => cases hk
      | true =>
        cases hk
        refine ⟨Nat.le_refl _, hRoom, newBuffer (bytesFor n), ?_, newBuffer_wf _, (newBuffer_size _).ge⟩
        rw [Seq.addShift, List.getElem?_append_right (by simp)]
        simp [wantCount])
  rw [scanFrom_eq p cur dir hPos] at hShift
  exact hShift

end

end Sys2Proof.Machine
end

section
/-! PROOF. The runs of the protocol layer's fixed sequences (43_executor.md R127, R128): JPROGRAM and the eFUSE operations (46_efuse.md). -/

namespace Sys2Proof.Machine

open Sys2Proof

/-! ## The run of a fixed sequence -/

/-- `u` is `s` after the fixed sequence of a protocol operation ran. -/
structure FixedRan (s u : State) (cur : TapState) (tms tdi : List Bool) (captures : List Capture) (samples : List Bool) : Prop where
  clocked : Clocked s (rebuffer s u) tms tdi samples
  seqs : u.seqs = s.seqs
  fault : u.fault = none
  cur : u.port.cur = cur
  stored : ∀ c ∈ captures, pseqStream c.handle c.bits u = (samples.drop c.offset).take c.bits

theorem Plays.fixed {s : State} {v : Seq} {cur : TapState} {tms tdi : List Bool} {captures : List Capture}
    (h : Plays s.port v cur tms tdi captures) (hReady : s.ready) :
    ∃ samples, FixedRan s (runFixed v (s.withPseq Seq.empty)) cur tms tdi captures samples := by
  obtain ⟨samples, hPlayed⟩ := h.runs (((s.withPseq Seq.empty).withPseq v).withExec
    { (s.withPseq Seq.empty).exec with seq := none, pc := 0 }) hReady rfl rfl fun _ _ => rfl
  have hSeqs := hPlayed.ran.stores.seqs rfl
  have hFault := hPlayed.ran.fault.trans hReady.2
  have hClocked := hPlayed.ran.clocked.rebuffered s
  have hCur := hPlayed.cur
  have hStored := hPlayed.stored
  rw [runFixed]
  generalize runWords v.cmds _ = u at hSeqs hFault hClocked hCur hStored ⊢
  exact ⟨samples, hClocked, hSeqs, hFault, hCur, hStored⟩

theorem afterFixed_live {v : Seq} {s : State} (h : (runFixed v s).fault = none) (next : State → State) :
    afterFixed v next s = next (runFixed v s) := if_neg (by rw [h]; decide)

theorem Drives.rebuffered {s t : State} (h : Drives s t) (r : State) : Drives (rebuffer r s) (rebuffer r t) :=
  { h with seqs := rfl, pseq := rfl, exec := rfl }

section

variable {s u : State} {cur : TapState} {tms tdi samples : List Bool} {captures : List Capture}

/-- A driven state after a fixed sequence, with its buffers and registers put back, is a driven state. -/
theorem FixedRan.drives (h : FixedRan s u cur tms tdi captures samples) {t : State} (hNext : Drives u t) : Drives s (rebuffer s t) :=
  h.clocked.drives.trans (hNext.rebuffered s)

/-- The samples that `after` later ones follow are those of a capture. -/
theorem FixedRan.samplesBefore (h : FixedRan s u cur tms tdi captures samples) {c : Capture} (hc : c ∈ captures) {after : Nat}
    (hEnd : c.offset + c.bits + after = tms.length) : pseqStream c.handle c.bits u = samplesBefore u after c.bits := by
  have hReads : readsOf .tdo u.trace = samples.reverse ++ readsOf .tdo s.trace := h.clocked.sampled
  have hCount := h.clocked.sampledCount
  rw [h.stored c hc, Machine.samplesBefore, hReads, List.drop_append_of_le_length (by rw [List.length_reverse]; omega),
    List.take_append_of_le_length (by rw [List.length_drop, List.length_reverse]; omega), List.drop_reverse, List.take_reverse,
    List.reverse_reverse, List.length_take, Nat.min_eq_left (by omega), List.drop_take]
  congr 1
  · omega
  · congr 1
    omega

end

/-! ## The operations past their checks -/

theorem State.targeted.length {s : State} {f : Family} (h : s.targeted f) :
    s.port.irLen ≠ 0#8 ∧ 1 ≤ s.port.irLen.toNat ∧ s.port.irLen.toNat < 2 ^ 23 := by
  obtain ⟨-, -, hLength, -⟩ := h
  have hWidth := s.port.irLen.isLt
  refine ⟨?_, hLength, by omega⟩
  intro hZero
  rw [hZero] at hLength
  exact absurd hLength (by decide)

/-- A protocol operation on a one-segment target: its body on the emptied `PSEQ`. -/
theorem protocolOperation_targeted {s : State} {f : Family} (h : s.targeted f) (body : Family → Nat → State → State) :
    protocolOperation body s = .next (body f s.port.irLen.toNat (s.withPseq Seq.empty)) := by
  obtain ⟨hReady, hFamily, -, hSegments⟩ := id h
  rw [protocolOperation_ready hReady, withTarget_some (s := s.withPseq Seq.empty) hFamily h.length.1 hSegments]
  rfl

/-! ## The steps as sequences -/

theorem scanTms_length (walkIn : List Bool) {bits : Nat} (hPos : 1 ≤ bits) : (scanTms walkIn bits).length = walkIn.length + bits + 2 := by
  simp only [scanTms, List.length_append, List.length_replicate, List.length_cons, List.length_nil]
  omega

theorem scanFrom_resetIr (p : Port) (n : Nat) : scanFrom p .reset .ir n = scanTms resetToShiftIr (p.irPads + n) := by
  have hWalk : enterTms .reset .ir = resetToShiftIr := by decide
  rw [scanFrom, hWalk, Port.pads_ir]

theorem scanFrom_idleIr (p : Port) (n : Nat) : scanFrom p .idle .ir n = scanTms idleToShiftIr (p.irPads + n) := by
  have hWalk : enterTms .idle .ir = idleToShiftIr := by decide
  rw [scanFrom, hWalk, Port.pads_ir]

theorem scanFrom_idleDr (p : Port) (n : Nat) : scanFrom p .idle .dr n = scanTms idleToShiftDr (p.drPads + n) := by
  have hWalk : enterTms .idle .dr = idleToShiftDr := by decide
  rw [scanFrom, hWalk, Port.pads_dr]

@[simp] theorem Seq.tlr_room (v : Seq) : v.tlr.pool.length = v.pool.length := rfl
@[simp] theorem Seq.idleFor_room (v : Seq) (n : Nat) : (v.idleFor n).pool.length = v.pool.length := rfl

@[simp] theorem Seq.loadIr_room (v : Seq) (len opcode : Nat) : (v.loadIr len opcode).pool.length = v.pool.length + 1 := by
  rw [Seq.loadIr, addShift_fillBuffer]
  simp

@[simp] theorem Seq.drScan_room (v : Seq) (n value : Nat) (wantTdo : Bool) :
    (v.drScan n value wantTdo).pool.length = v.pool.length + 1 + wantTdo.toNat := by
  rw [Seq.drScan, addShift_fillBuffer]
  simp only [List.length_append, List.length_cons, List.length_replicate]
  omega

@[simp] theorem Seq.drScanFill_room (v : Seq) (n : Nat) (ones wantTdo : Bool) :
    (v.drScanFill n ones wantTdo).pool.length = v.pool.length + wantTdo.toNat := by
  simp [Seq.drScanFill, Seq.addShift, wantCount]

section

variable {p : Port} {v : Seq} {cur : TapState} {tms tdi : List Bool} {captures : List Capture}

theorem Plays.loadIr (h : Plays p v cur tms tdi captures) {len : Nat} (hPos : 1 ≤ len) (hMax : len < 2 ^ 23)
    (hRoom : v.pool.length + 1 < 2 ^ 16) (opcode : Nat) :
    Plays p (v.loadIr len opcode) .idle (tms ++ scanFrom p cur .ir len) (tdi ++ scanBits p .ir len opcode) captures := by
  have hScan := h.scan .ir hPos hMax opcode false hRoom
  rwa [shiftCaptures, Seq.tdoOf, if_neg (by decide), Option.map_none, Option.toList_none, List.append_nil] at hScan

theorem Plays.drScan (h : Plays p v cur tms tdi captures) {n : Nat} (hPos : 1 ≤ n) (hMax : n < 2 ^ 23) (value : Nat)
    (hRoom : v.pool.length + 1 < 2 ^ 16) :
    Plays p (v.drScan n value false) .idle (tms ++ scanFrom p cur .dr n) (tdi ++ scanBits p .dr n value) captures := by
  have hScan := h.scan .dr hPos hMax value false hRoom
  rwa [shiftCaptures, Seq.tdoOf, if_neg (by decide), Option.map_none, Option.toList_none, List.append_nil] at hScan

theorem Plays.drScanCapture (h : Plays p v cur tms tdi captures) {n : Nat} (hPos : 1 ≤ n) (hMax : n < 2 ^ 23) (value : Nat)
    {handle offset : Nat} (hHandle : v.pool.length + 1 = handle) (hOffset : tms.length + (enterPulses cur .dr + p.prePad .dr) = offset)
    (hRoom : handle < 2 ^ 16) :
    Plays p (v.drScan n value true) .idle (tms ++ scanFrom p cur .dr n) (tdi ++ scanBits p .dr n value)
      (captures ++ [⟨handle, offset, n⟩]) := by
  subst hHandle hOffset
  exact h.scan .dr hPos hMax value true hRoom

end

/-! ## JPROGRAM -/

theorem jprogramSeq_plays (p : Port) (f : Family) {len : Nat} (hPos : 1 ≤ len) (hMax : len < 2 ^ 23) :
    Plays p (jprogramSeq f len) .idle ([true, true, true, true, true] ++ scanTms resetToShiftIr (p.irPads + len))
      (scanBits p .ir len (Config.deviceOpcode .jprogram f)) [] := by
  rw [← scanFrom_resetIr]
  exact (Plays.empty p).tlr.loadIr hPos hMax (by decide) _

/-- Settles O39: the account of the fixed sequence (`jprogramSeq_plays`), then of the delay (`delay_timed`). -/
theorem jprogram : Obligations.Jprogram := by
  intro s f hTarget
  obtain ⟨-, hPos, hMax⟩ := hTarget.length
  obtain ⟨samples, hFixed⟩ := (jprogramSeq_plays s.port f hPos hMax).fixed hTarget.1
  have hExec : exec .jprogram s = execJprogram s := rfl
  rw [hExec, execJprogram, protocolOperation_targeted hTarget, afterFixed_live hFixed.fault]
  generalize runFixed (jprogramSeq f s.port.irLen.toNat) (s.withPseq Seq.empty) = u at hFixed
  have hWaited := delay_waited Config.jprogramSettleUs u
  obtain ⟨readings, _, _, hTimed, -, hNow, -⟩ := delay_timed Config.jprogramSettleUs u
  have hPulses := hFixed.clocked.count
  rw [List.length_append, scanTms_length _ (by omega)] at hPulses
  have hCount : ([true, true, true, true, true].length + (resetToShiftIr.length + (s.port.irPads + s.port.irLen.toNat) + 2)) =
      5 + (5 + s.port.irPads + s.port.irLen.toNat + 2) := by
    show 5 + (5 + _ + 2) = _
    omega
  rw [hCount] at hPulses
  exact ⟨u, _, rfl, hWaited.drives.fault.trans hFixed.fault, rfl, rfl, hWaited.cur.trans hFixed.cur, hFixed.clocked.drives.grows,
    hPulses, hFixed.clocked.droveTdi, hFixed.clocked.droveTms, hFixed.clocked.droveHwm, hFixed.clocked.timers, hFixed.clocked.now,
    ⟨readings, hTimed.trace⟩, hNow, hWaited.drives.seqs.trans hFixed.seqs, undrive_complete (hFixed.drives hWaited.drives) .nothing⟩

/-! ## The module of the environment during a run -/

section

theorem risingEdge_module (e : Env) (tms tdi : Bool) : (e.risingEdge tms tdi).module = e.module := by
  unfold Env.risingEdge Env.module
  cases hBench : e.bench with
  | none => simp only [hBench]
  | some b => cases hChain : b.chain <;> simp [hBench, hChain]

/-- Writes of pins other than `HWM_START` do not reach the module. -/
theorem pinWrite_module {p : OutPin} (hp : p ≠ .hwmStart) (level : Bool) (s : State) : (pinWrite p level s).env.module = s.env.module := by
  cases p with
  | hwmStart => exact absurd rfl hp
  | tms => rfl
  | tdi => rfl
  | tck =>
    show (if level && !s.pins.tck then s.env.risingEdge s.pins.tms s.pins.tdi else s.env).module = _
    split
    · exact risingEdge_module _ _ _
    · rfl

theorem driveTdi_module (tdi : Option Bool) (s : State) : (driveTdi tdi s).env.module = s.env.module := by
  cases tdi with
  | none => rfl
  | some b => rfl

theorem pinRead_tdo_module (s : State) : (pinRead .tdo s).2.env.module = s.env.module := by
  show (s.env.sampled .tdo _).module = _
  unfold Env.sampled
  cases hBench : s.env.bench <;> simp

theorem clock_module (tms : Bool) (tdi : Option Bool) (s : State) : (clock tms tdi s).2.env.module = s.env.module := by
  show (pinWrite .tck false (pinRead .tdo (pinWrite .tck true (driveTdi tdi (pinWrite .tms tms s)))).2).env.module = _
  rw [pinWrite_module (by decide), pinRead_tdo_module, pinWrite_module (by decide), driveTdi_module, pinWrite_module (by decide)]

theorem walk_module (bits : List Bool) (s : State) : (walk bits s).env.module = s.env.module := by
  induction bits generalizing s with
  | nil => rfl
  | cons b rest ih => rw [walk, ih, clock_module]

theorem navigateTo_module (target : TapState) (s : State) : (navigateTo target s).env.module = s.env.module := by
  unfold navigateTo
  split
  · exact walk_module _ s
  · split
    · rfl
    · exact walk_module _ s

theorem shiftClocks_module (leave : Bool) (bits : List Bool) (s : State) : (shiftClocks leave bits s).2.env.module = s.env.module := by
  induction bits generalizing s with
  | nil => rfl
  | cons b rest ih =>
    rw [shiftClocks]
    exact (ih _).trans (clock_module _ _ s)

theorem storeCapture_env (tdo : Option Nat) (bits : List Bool) (s : State) : (storeCapture tdo bits s).env = s.env := by
  rw [storeCapture_frame]
  rfl

theorem setStateEffect_module (st : TapState) (idle : Nat) (s : State) : (setStateEffect st idle s).env.module = s.env.module :=
  (walk_module _ _).trans (navigateTo_module st s)

theorem enterShift_module (dir : Dir) (s : State) :
    (if s.port.cur = dir.shiftState then s else navigateTo dir.shiftState s).env.module = s.env.module := by
  split
  · rfl
  · exact navigateTo_module _ s

theorem shiftEngine_module (dir : Dir) (bits : List Bool) (exit : TapState) (s : State) :
    (shiftEngine dir bits exit s).2.env.module = s.env.module := shiftClocks_module _ _ s

theorem shiftEffect_module (dir : Dir) (n : Nat) (tdi : TdiSource) (tdo : Option Nat) (exit : TapState) (s : State) :
    (shiftEffect dir n tdi tdo exit s).env.module = s.env.module := by
  have hStored : ∀ (bits : List Bool) (need : Bool) (x : State), ((storeCapture tdo bits x).setNeedNav need).env.module = x.env.module :=
    fun bits need x => congrArg Env.module (storeCapture_env tdo bits x)
  have hEnter := enterShift_module dir s
  unfold shiftEffect
  generalize (if s.port.cur = dir.shiftState then s else navigateTo dir.shiftState s) = s1 at hEnter ⊢
  dsimp only
  split
  · rw [navigateTo_module, hStored, shiftEngine_module, hEnter]
  · rw [hStored, shiftEngine_module, hEnter]

theorem commandBody_module {effect : State → State} (hEffect : ∀ s, (effect s).env.module = s.env.module) (legal : Seq → Bool) (s : State) :
    (commandBody legal effect s).env.module = s.env.module := by
  unfold commandBody
  split
  · rfl
  · split
    · rfl
    · exact hEffect s

theorem wordBody_module (w : Word64) (s : State) : (wordBody w s).env.module = s.env.module := by
  cases hWord : decodeCommand w with
  | error e => rw [wordBody, hWord]; rfl
  | ok i =>
    rcases decodeCommand_ok hWord with ⟨st, idle, rfl, -⟩ | ⟨dir, n, tdi, tdo, exit, rfl, -⟩
    · rw [(setState_word hWord s.port s.curSeq s []).1]
      exact commandBody_module (setStateEffect_module st idle) _ s
    · rw [(shift_word hWord s.port s.curSeq s []).1]
      exact commandBody_module (shiftEffect_module dir n tdi tdo exit) _ s

theorem advancePc_env (s : State) : (advancePc s).env = s.env := by
  unfold advancePc
  split <;> rfl

/-- No command touches the fuse-blow module (46_efuse.md R155). -/
theorem runWords_module (words : List Word64) (s : State) : (runWords words s).env.module = s.env.module := by
  induction words generalizing s with
  | nil => rfl
  | cons w rest ih =>
    have hWord : (advancePc (wordBody w s)).env.module = s.env.module := by rw [advancePc_env, wordBody_module]
    rw [runWords]
    split
    · exact hWord
    · rw [ih, hWord]

end

/-! ## EFUSE_PROGRAM_ROW -/

theorem efuseProgramSeq_plays (p : Port) (f : Family) {len : Nat} (hPos : 1 ≤ len) (hMax : len < 2 ^ 23) (w : BitVec 64)
    (hIdle : Config.efuseProgIdle < 2 ^ 32) :
    Plays p (efuseProgramSeq f len w) .idle
      ([true, true, true, true, true] ++ scanTms resetToShiftIr (p.irPads + len) ++ scanTms idleToShiftDr (p.drPads + 64) ++
        List.replicate Config.efuseProgIdle false)
      (scanBits p .ir len (Config.deviceOpcode .fuseCts f) ++ scanBits p .dr 64 w.toNat) [] := by
  rw [← scanFrom_resetIr, ← scanFrom_idleDr]
  exact (((Plays.empty p).tlr.loadIr hPos hMax (by decide) _).drScan (by decide) (by decide) w.toNat (by simp [Seq.empty])).idleFor hIdle

/-- What a handshake answers after a fixed sequence, apart from its times and samples. -/
theorem handshake_after {s u : State} {tms tdi samples : List Bool} {captures : List Capture}
    (h : FixedRan s u .idle tms tdi captures samples) :
    pulsed u (handshake u) 0 ∧ drove .tdi u (handshake u) [] ∧ drove .tms u (handshake u) [] ∧
      drove .hwmStart u (handshake u) [true, false] ∧ (handshake u).pins.hwmStart = false ∧ (handshake u).fault = none ∧
      (handshake u).returned = .nothing ∧ (handshake u).port.cur = .idle ∧
      ((handshake u).result = okWord ∨ (handshake u).result = 0x01000103#32 ∨ (handshake u).result = 0x01000203#32) ∧
      (handshake u).seqs = s.seqs ∧ undrive s (rebuffer s (handshake u)) = s := by
  obtain ⟨v, hHandled, -, hAnswer⟩ := handshake_handled u
  have hSeqs := hHandled.drives.seqs.trans h.seqs
  have hFrame := undrive_complete (h.drives hHandled.drives) .nothing
  have hPins : v.pins.hwmStart = false := by rw [hHandled.pins]; rfl
  have hFault := hHandled.drives.fault.trans h.fault
  have hCur := hHandled.cur.trans h.cur
  rcases hAnswer with hAnswer | hAnswer | hAnswer <;> rw [hAnswer]
  · exact ⟨hHandled.count, hHandled.droveTdi, hHandled.droveTms, hHandled.droveHwm, hPins, hFault, rfl, hCur, .inl rfl, hSeqs, hFrame⟩
  · exact ⟨hHandled.count, hHandled.droveTdi, hHandled.droveTms, hHandled.droveHwm, hPins, hFault, rfl, hCur, .inr (.inl rfl), hSeqs,
      hFrame⟩
  · exact ⟨hHandled.count, hHandled.droveTdi, hHandled.droveTms, hHandled.droveHwm, hPins, hFault, rfl, hCur, .inr (.inr rfl), hSeqs,
      hFrame⟩

section

variable {s : State} {f : Family} {row bit page : Nat} {red : Bool}

theorem exec_efuseProgramRow_wide (h : s.targeted f) (hWide : 2 ^ 16 ≤ row ∨ 2 ^ 8 ≤ page) :
    exec (.efuseProgramRow row bit page red) s = .next (takeFault .valueTooWide (s.withPseq Seq.empty)) := by
  have hExec : exec (.efuseProgramRow row bit page red) s = execEfuseProgramRow row bit page red s := rfl
  rw [hExec, execEfuseProgramRow, protocolOperation_targeted h, withinWidths_wide]
  rw [fitAll_two]
  omega

section

variable (h : s.targeted f) (hRow : row < 2 ^ 16) (hPage : page < 2 ^ 8)

include h hRow hPage

theorem exec_efuseProgramRow_bit (hBit : 31 < bit) :
    exec (.efuseProgramRow row bit page red) s = .next (takeFault .badArgument (s.withPseq Seq.empty)) := by
  have hExec : exec (.efuseProgramRow row bit page red) s = execEfuseProgramRow row bit page red s := rfl
  rw [hExec, execEfuseProgramRow, protocolOperation_targeted h, withinWidths_fit (fitAll_two.mpr ⟨hRow, hPage⟩), if_pos hBit]

theorem exec_efuseProgramRow_outside (hBit : bit ≤ 31)
    (hWord : Config.efuseDrEncode f (BitVec.ofNat 16 row) (BitVec.ofNat 5 bit) (BitVec.ofNat 8 page) red true = none) :
    exec (.efuseProgramRow row bit page red) s = .next (raiseError .badFuseAddress (s.withPseq Seq.empty)) := by
  have hExec : exec (.efuseProgramRow row bit page red) s = execEfuseProgramRow row bit page red s := rfl
  rw [hExec, execEfuseProgramRow, protocolOperation_targeted h, withinWidths_fit (fitAll_two.mpr ⟨hRow, hPage⟩),
    if_neg (Nat.not_lt.mpr hBit)]
  simp only [hWord]

theorem exec_efuseProgramRow_inside (hBit : bit ≤ 31) {w : BitVec 64}
    (hWord : Config.efuseDrEncode f (BitVec.ofNat 16 row) (BitVec.ofNat 5 bit) (BitVec.ofNat 8 page) red true = some w) :
    exec (.efuseProgramRow row bit page red) s = .next (withinWidths [(Config.efuseProgIdle, 32)]
      (afterFixed (efuseProgramSeq f s.port.irLen.toNat w) handshake) (s.withPseq Seq.empty)) := by
  have hExec : exec (.efuseProgramRow row bit page red) s = execEfuseProgramRow row bit page red s := rfl
  rw [hExec, execEfuseProgramRow, protocolOperation_targeted h, withinWidths_fit (fitAll_two.mpr ⟨hRow, hPage⟩),
    if_neg (Nat.not_lt.mpr hBit)]
  simp only [hWord]

end

end

theorem runFixed_module (v : Seq) (s : State) : (runFixed v s).env.module = s.env.module := runWords_module _ _

/-- Settles O40: the account of the fixed sequence (`efuseProgramSeq_plays`), then of the handshake (`handshake_after`). -/
theorem efuseProgramRow : Obligations.EfuseProgramRow := by
  intro s f row bit page red hTarget
  refine ⟨exec_efuseProgramRow_wide hTarget, fun hRow hPage => exec_efuseProgramRow_bit hTarget hRow hPage, fun hRow hPage hBit => ?_⟩
  split
  next hWord => exact exec_efuseProgramRow_outside hTarget hRow hPage hBit hWord
  next w hWord =>
    rw [exec_efuseProgramRow_inside hTarget hRow hPage hBit hWord]
    split
    next hIdle =>
      obtain ⟨-, hPos, hMax⟩ := hTarget.length
      obtain ⟨samples, hFixed⟩ := (efuseProgramSeq_plays s.port f hPos hMax w hIdle).fixed hTarget.1
      have hModule := runFixed_module (efuseProgramSeq f s.port.irLen.toNat w) (s.withPseq Seq.empty)
      rw [withinWidths_fit (fitAll_one.mpr hIdle), afterFixed_live hFixed.fault]
      generalize runFixed (efuseProgramSeq f s.port.irLen.toNat w) (s.withPseq Seq.empty) = u at hFixed hModule
      have hPulses : pulsed s u (5 + (5 + s.port.irPads + s.port.irLen.toNat + 2) + (3 + s.port.drPads + 64 + 2) +
          Config.efuseProgIdle) := by
        have hCount := hFixed.clocked.count
        simp only [List.length_append, List.length_replicate] at hCount
        rw [scanTms_length _ (by omega), scanTms_length _ (by omega)] at hCount
        refine Eq.trans hCount ?_
        show _ + (5 + (5 + _ + 2) + (3 + _ + 2) + _) = _
        omega
      obtain ⟨hCount, hTdi, hTms, hStarts, hLatch, hFault, hReturned, hCur, hResult, hSeqs, hFrame⟩ := handshake_after hFixed
      refine ⟨u, _, rfl, rfl, hFixed.clocked.drives.grows, hFixed.fault, hFixed.cur, hPulses, hFixed.clocked.droveTdi,
        hFixed.clocked.droveTms, hFixed.clocked.droveHwm, hFixed.clocked.readyReads, hFixed.clocked.endReads, hCount, hTdi, hTms, hStarts,
        hLatch, hFault, hReturned, hCur, hResult, fun b hBench hReadyAt hEndAt => ?_, hSeqs, hFrame⟩
      have hHwm : u.env.module = some b.hwm := hModule.trans (congrArg (Option.map Bench.hwm) hBench)
      exact handshake_of_prompt_module hHwm hReadyAt hEndAt
    next hIdle => rw [withinWidths_wide fun hFits => hIdle (fitAll_one.mp hFits)]

/-! ## EFUSE_READ_ROW -/

/-- The TMS bits of EFUSE_READ_ROW. -/
def efuseReadTms (p : Port) (len : Nat) : List Bool :=
  [true, true, true, true, true] ++ scanTms resetToShiftIr (p.irPads + len) ++ scanTms idleToShiftDr (p.drPads + 64) ++
    List.replicate Config.efuseReadIdle false ++ scanTms idleToShiftDr (p.drPads + 64)

theorem efuseReadTms_length (p : Port) {len : Nat} (hPos : 1 ≤ len) :
    (efuseReadTms p len).length = 5 + (5 + p.irPads + len + 2) + (3 + p.drPads + 64 + 2) + Config.efuseReadIdle + (3 + p.drPads + 64 + 2) := by
  unfold efuseReadTms
  simp only [List.length_append, List.length_replicate]
  rw [scanTms_length _ (by omega), scanTms_length _ (by omega)]
  show 5 + (5 + _ + 2) + (3 + _ + 2) + _ + (3 + _ + 2) = _
  omega

/-- The capture of the second scan: what the 64 samples between its DR pads are. -/
def efuseReadCapture (p : Port) (len : Nat) : Capture :=
  ⟨efuseCaptureHandle, 5 + (5 + p.irPads + len + 2) + (3 + p.drPads + 64 + 2) + Config.efuseReadIdle + (3 + p.drPre.toNat),
    Config.efuseDrBits⟩

theorem efuseReadSeq_plays (p : Port) (f : Family) {len : Nat} (hPos : 1 ≤ len) (hMax : len < 2 ^ 23) (w : BitVec 64)
    (hIdle : Config.efuseReadIdle < 2 ^ 32) :
    Plays p (efuseReadSeq f len w) .idle (efuseReadTms p len)
      (scanBits p .ir len (Config.deviceOpcode .fuseCts f) ++ scanBits p .dr 64 w.toNat ++ scanBits p .dr 64 w.toNat)
      [efuseReadCapture p len] := by
  have hFirst := (((Plays.empty p).tlr.loadIr hPos hMax (by decide) (Config.deviceOpcode .fuseCts f)).drScan (n := 64) (by decide)
    (by decide) w.toNat (by simp [Seq.empty])).idleFor hIdle
  rw [scanFrom_resetIr, scanFrom_idleDr] at hFirst
  have hOffset : ([] ++ [true, true, true, true, true] ++ scanTms resetToShiftIr (p.irPads + len) ++
      scanTms idleToShiftDr (p.drPads + 64) ++ List.replicate Config.efuseReadIdle false).length +
        (enterPulses .idle .dr + p.prePad .dr) = (efuseReadCapture p len).offset := by
    simp only [List.length_append, List.length_replicate]
    rw [scanTms_length _ (by omega), scanTms_length _ (by omega)]
    show 0 + 5 + (5 + _ + 2) + (3 + _ + 2) + _ + (3 + p.drPre.toNat) = _ + (3 + p.drPre.toNat)
    omega
  have hBoth := hFirst.drScanCapture (n := 64) (by decide) (by decide) w.toNat (by simp [Seq.empty, efuseCaptureHandle]) hOffset
    (show efuseCaptureHandle < 2 ^ 16 by decide)
  rwa [scanFrom_idleDr] at hBoth

/-- Bit `j` of the word whose value a stream holds. -/
theorem ofNat_bitsNat_bit (w : Nat) (bits : List Bool) {j : Nat} (hj : j < w) : (BitVec.ofNat w (bitsNat bits)).getLsbD j = bits.getD j false := by
  rw [BitVec.getLsbD_ofNat, bitsNat_testBit, decide_eq_true hj, Bool.true_and]

theorem getD_drop_take (bits : List Bool) {from' n j : Nat} (hj : j < n) :
    ((bits.drop from').take n).getD j false = bits.getD (from' + j) false := by
  simp only [List.getD_eq_getElem?_getD, List.getElem?_take, hj, if_true, List.getElem?_drop]

section

variable {s : State} {f : Family} {row page : Nat} {red : Bool}

theorem exec_efuseReadRow_wide (h : s.targeted f) (hWide : 2 ^ 16 ≤ row ∨ 2 ^ 8 ≤ page) :
    exec (.efuseReadRow row page red) s = .next (takeFault .valueTooWide (s.withPseq Seq.empty)) := by
  have hExec : exec (.efuseReadRow row page red) s = execEfuseReadRow row page red s := rfl
  rw [hExec, execEfuseReadRow, protocolOperation_targeted h, withinWidths_wide]
  rw [fitAll_two]
  omega

variable (h : s.targeted f) (hRow : row < 2 ^ 16) (hPage : page < 2 ^ 8)

include h hRow hPage

theorem exec_efuseReadRow_outside
    (hWord : Config.efuseDrEncode f (BitVec.ofNat 16 row) 0#5 (BitVec.ofNat 8 page) red false = none) :
    exec (.efuseReadRow row page red) s = .next (raiseError .badFuseAddress (s.withPseq Seq.empty)) := by
  have hExec : exec (.efuseReadRow row page red) s = execEfuseReadRow row page red s := rfl
  rw [hExec, execEfuseReadRow, protocolOperation_targeted h, withinWidths_fit (fitAll_two.mpr ⟨hRow, hPage⟩)]
  simp only [hWord]

theorem exec_efuseReadRow_inside {w : BitVec 64}
    (hWord : Config.efuseDrEncode f (BitVec.ofNat 16 row) 0#5 (BitVec.ofNat 8 page) red false = some w) :
    exec (.efuseReadRow row page red) s = .next (withinWidths [(Config.efuseReadIdle, 32)]
      (afterFixed (efuseReadSeq f s.port.irLen.toNat w) fun t =>
        complete (.rowData (rowData (pseqStream efuseCaptureHandle Config.efuseDrBits t))) t) (s.withPseq Seq.empty)) := by
  have hExec : exec (.efuseReadRow row page red) s = execEfuseReadRow row page red s := rfl
  rw [hExec, execEfuseReadRow, protocolOperation_targeted h, withinWidths_fit (fitAll_two.mpr ⟨hRow, hPage⟩)]
  simp only [hWord]

end

/-- Settles O42: the account of the fixed sequence and its capture (`efuseReadSeq_plays`). -/
theorem efuseReadRow : Obligations.EfuseReadRow := by
  intro s f row page red hTarget
  refine ⟨exec_efuseReadRow_wide hTarget, fun hRow hPage => ?_⟩
  split
  next hWord => exact exec_efuseReadRow_outside hTarget hRow hPage hWord
  next w hWord =>
    rw [exec_efuseReadRow_inside hTarget hRow hPage hWord]
    split
    next hIdle =>
      obtain ⟨-, hPos, hMax⟩ := hTarget.length
      obtain ⟨samples, hFixed⟩ := (efuseReadSeq_plays s.port f hPos hMax w hIdle).fixed hTarget.1
      rw [withinWidths_fit (fitAll_one.mpr hIdle), afterFixed_live hFixed.fault]
      generalize runFixed (efuseReadSeq f s.port.irLen.toNat w) (s.withPseq Seq.empty) = u at hFixed
      have hLength := efuseReadTms_length s.port hPos
      have hPulses := hFixed.clocked.count
      have hStream : pseqStream efuseCaptureHandle Config.efuseDrBits u = samplesBefore u (2 + s.port.drPost.toNat) 64 := by
        refine hFixed.samplesBefore (c := efuseReadCapture s.port s.port.irLen.toNat) List.mem_cons_self ?_
        rw [hLength, efuseReadCapture, Port.drPads, Config.efuseDrBits]
        dsimp only
        omega
      rw [hLength] at hPulses
      refine ⟨_, rowData (pseqStream efuseCaptureHandle Config.efuseDrBits u), rfl, hFixed.fault, rfl, rfl, hFixed.cur, fun j hj => ?_,
        hPulses, hFixed.clocked.droveTdi, hFixed.clocked.droveTms, hFixed.clocked.droveHwm, hFixed.seqs,
        undrive_complete hFixed.clocked.drives _⟩
      rw [rowData, ofNat_bitsNat_bit _ _ hj, getD_drop_take _ hj, hStream]
      rfl
    next hIdle => rw [withinWidths_wide fun hFits => hIdle (fitAll_one.mp hFits)]

end Sys2Proof.Machine
end

section
/-! PROOF. The BBRAM key sequencer's fixed sequences (47_bbram.md R163 to R171): eight rounds of one word each, by induction on the rounds. -/

namespace Sys2Proof.Machine

open Sys2Proof

/-! ## Rounds -/

/-- What one round of a loop over the key's words adds to a fixed sequence that ends in `Idle`: its TMS bits, its TDI bits, two buffers, and
its captures, which its room and its clocks so far place. -/
structure Round (p : Port) (step : Seq → Fin 8 → Seq) (tms : List Bool) (tdi : Fin 8 → List Bool) (captures : Nat → Nat → List Capture) :
    Prop where
  room : ∀ v k, (step v k).pool.length = v.pool.length + 2
  plays : ∀ v k tms₀ tdi₀ captures₀, v.pool.length + 2 < 2 ^ 16 → Plays p v .idle tms₀ tdi₀ captures₀ →
    Plays p (step v k) .idle (tms₀ ++ tms) (tdi₀ ++ tdi k) (captures₀ ++ captures v.pool.length tms₀.length)

section

variable {p : Port} {step : Seq → Fin 8 → Seq} {tms : List Bool} {tdi : Fin 8 → List Bool} {captures : Nat → Nat → List Capture}

theorem Round.foldl_room (h : Round p step tms tdi captures) (rounds : List (Fin 8)) (v : Seq) :
    (rounds.foldl step v).pool.length = v.pool.length + 2 * rounds.length := by
  induction rounds generalizing v with
  | nil => rfl
  | cons k rest ih =>
    rw [List.foldl_cons, ih, h.room, List.length_cons]
    omega

theorem length_flatten_replicate (n : Nat) (bits : List Bool) : ((List.replicate n bits).flatten).length = n * bits.length := by
  rw [List.length_flatten, List.map_replicate, List.sum_replicate_nat]

/-- A loop of rounds, one after another. -/
theorem Round.foldl_plays (h : Round p step tms tdi captures) {v : Seq} {tms₀ tdi₀ : List Bool} {captures₀ : List Capture}
    (hStart : Plays p v .idle tms₀ tdi₀ captures₀) (rounds : List (Fin 8)) (hRoom : v.pool.length + 2 * rounds.length < 2 ^ 16) :
    Plays p (rounds.foldl step v) .idle (tms₀ ++ (List.replicate rounds.length tms).flatten) (tdi₀ ++ rounds.flatMap tdi)
      (captures₀ ++ (List.range rounds.length).flatMap fun k => captures (v.pool.length + 2 * k) (tms₀.length + k * tms.length)) := by
  induction rounds using List.reverseRecOn with
  | nil => simpa using hStart
  | append_singleton rounds k ih =>
    rw [List.length_append, List.length_singleton] at hRoom
    have hRest := h.foldl_room rounds v
    have hNext := h.plays (rounds.foldl step v) k _ _ _ (by omega) (ih (by omega))
    rw [hRest, List.length_append, length_flatten_replicate] at hNext
    rw [List.foldl_append, List.length_append, List.length_singleton, List.replicate_succ', List.flatten_append, List.flatten_singleton,
      List.flatMap_append, List.flatMap_singleton, List.range_succ, List.flatMap_append, List.flatMap_singleton, ← List.append_assoc,
      ← List.append_assoc, ← List.append_assoc]
    exact hNext

end

/-! ## BBRAM_PROGRAM -/

section

variable {p : Port} {v : Seq} {cur : TapState} {tms tdi : List Bool} {captures : List Capture}

theorem Plays.drScanFill (h : Plays p v cur tms tdi captures) {n : Nat} (hPos : 1 ≤ n) (hMax : n < 2 ^ 23) (ones : Bool)
    (hRoom : v.pool.length < 2 ^ 16) :
    Plays p (v.drScanFill n ones false) .idle (tms ++ scanFrom p cur .dr n) (tdi ++ paddedStream p .dr (List.replicate n ones)) captures := by
  have hScan := h.scanFill .dr hPos hMax ones false hRoom
  rwa [shiftCaptures, Seq.tdoOf, if_neg (by decide), Option.map_none, Option.toList_none, List.append_nil] at hScan

theorem Plays.drScanFillCapture (h : Plays p v cur tms tdi captures) {n : Nat} (hPos : 1 ≤ n) (hMax : n < 2 ^ 23) (ones : Bool)
    (hRoom : v.pool.length < 2 ^ 16) :
    Plays p (v.drScanFill n ones true) .idle (tms ++ scanFrom p cur .dr n) (tdi ++ paddedStream p .dr (List.replicate n ones))
      (captures ++ [⟨v.pool.length, tms.length + (enterPulses cur .dr + p.prePad .dr), n⟩]) :=
  h.scanFill .dr hPos hMax ones true hRoom

@[simp] theorem Seq.iscEnable_room (v : Seq) (f : Family) (len : Nat) : (v.iscEnable f len).pool.length = v.pool.length + 2 := by
  simp [Seq.iscEnable]

theorem Plays.iscEnable (h : Plays p v cur tms tdi captures) (f : Family) {len : Nat} (hPos : 1 ≤ len) (hMax : len < 2 ^ 23)
    (hRoom : v.pool.length + 2 < 2 ^ 16) :
    Plays p (v.iscEnable f len) .idle (tms ++ scanFrom p cur .ir len ++ scanTms idleToShiftDr (p.drPads + 5) ++ List.replicate 12 false)
      (tdi ++ scanBits p .ir len (Config.deviceOpcode .iscEnable f) ++ scanBits p .dr 5 Config.bbramEnableDr.toNat) captures := by
  rw [← scanFrom_idleDr]
  exact ((h.loadIr hPos hMax (by omega) _).drScan (by decide) (by decide) _ (by rw [Seq.loadIr_room]; omega)).idleFor (by decide)

end

/-- The TMS bits of one programmed word. -/
def programTms (p : Port) (len : Nat) : List Bool :=
  scanTms idleToShiftIr (p.irPads + len) ++ scanTms idleToShiftDr (p.drPads + 32) ++ [false]

theorem programWord_round (p : Port) (f : Family) {len : Nat} (hPos : 1 ≤ len) (hMax : len < 2 ^ 23) (key : Vector Byte 32) :
    Round p (Seq.programWord f len key) (programTms p len)
      (fun k => scanBits p .ir len (Config.deviceOpcode .iscProgram f) ++ scanBits p .dr 32 (keyWord key k).toNat) (fun _ _ => []) where
  room := fun v k => by simp [Seq.programWord]
  plays := fun v k tms tdi captures hRoom h => by
    have hWord := ((h.loadIr hPos hMax (by omega) (Config.deviceOpcode .iscProgram f)).drScan (n := 32) (by decide) (by decide)
      (keyWord key k).toNat (by rw [Seq.loadIr_room]; omega)).idleFor (n := Config.bbramProgramIdle) (by decide)
    rw [scanFrom_idleIr, scanFrom_idleDr] at hWord
    rw [programTms, List.append_nil, ← List.append_assoc, ← List.append_assoc, ← List.append_assoc]
    exact hWord

/-- The TMS bits of BBRAM_PROGRAM. -/
def bbramProgramTms (p : Port) (len : Nat) : List Bool :=
  [true, true, true, true, true] ++ scanTms resetToShiftIr (p.irPads + len) ++
      scanTms idleToShiftDr (p.drPads + 5) ++ List.replicate 12 false ++ scanTms idleToShiftIr (p.irPads + len) ++
      scanTms idleToShiftDr (p.drPads + Config.bbramProgramKeyBits) ++ List.replicate 9 false ++
      (List.replicate 8 (programTms p len)).flatten

theorem bbramProgramTms_length (p : Port) {len : Nat} (hPos : 1 ≤ len) :
    (bbramProgramTms p len).length = 5 + (5 + p.irPads + len + 2) + (3 + p.drPads + 5 + 2) + 12 +
      (4 + p.irPads + len + 2) + (3 + p.drPads + Config.bbramProgramKeyBits + 2) + 9 +
      8 * ((4 + p.irPads + len + 2) + (3 + p.drPads + 32 + 2) + 1) := by
  have hKey : 1 ≤ Config.bbramProgramKeyBits := Nat.succ_pos _
  unfold bbramProgramTms programTms
  simp only [List.length_append, List.length_replicate, length_flatten_replicate]
  repeat rw [scanTms_length _ (by omega)]
  show 5 + (5 + _ + 2) + (3 + _ + 2) + 12 + (4 + _ + 2) + (3 + _ + 2) + 9 + 8 * (4 + _ + 2 + (3 + _ + 2) + 1) = _
  omega

/-- The TDI bits of BBRAM_PROGRAM. -/
def bbramProgramTdi (p : Port) (f : Family) (len : Nat) (key : Vector Byte 32) : List Bool :=
  scanBits p .ir len (Config.deviceOpcode .iscEnable f) ++ scanBits p .dr 5 Config.bbramEnableDr.toNat ++
    scanBits p .ir len (Config.deviceOpcode .iscProgramKey f) ++ paddedStream p .dr (List.replicate Config.bbramProgramKeyBits true) ++
    (List.finRange 8).flatMap fun k => scanBits p .ir len (Config.deviceOpcode .iscProgram f) ++ scanBits p .dr 32 (keyWord key k).toNat

theorem bbramProgramSeq_plays (p : Port) (f : Family) {len : Nat} (hPos : 1 ≤ len) (hMax : len < 2 ^ 23) (key : Vector Byte 32)
    (hKey : Config.bbramProgramKeyBits ≤ Config.maxShiftBits) :
    Plays p (bbramProgramSeq f len key) .idle (bbramProgramTms p len) (bbramProgramTdi p f len key) [] := by
  have hEnabled := (Plays.empty p).tlr.iscEnable f hPos hMax (by decide)
  have hKeyBits : Config.bbramProgramKeyBits < 2 ^ 23 := Nat.lt_succ_of_le hKey
  have hStart := ((hEnabled.loadIr hPos hMax (by simp [Seq.empty]) (Config.deviceOpcode .iscProgramKey f)).drScanFill
    (n := Config.bbramProgramKeyBits) (Nat.succ_pos _) hKeyBits true (by simp [Seq.empty])).idleFor (n := Config.bbramProgramKeyIdle)
    (by decide)
  rw [scanFrom_resetIr, scanFrom_idleIr, scanFrom_idleDr] at hStart
  have hLoop := (programWord_round p f hPos hMax key).foldl_plays hStart (List.finRange 8) (by simp [Seq.empty])
  rw [List.flatMap_eq_nil_iff.mpr fun _ _ => rfl, List.append_nil, List.length_finRange] at hLoop
  exact hLoop

/-- BBRAM_PROGRAM with a key, past the check of the key scan's length. -/
theorem exec_bbramProgram_targeted {s : State} {f : Family} (h : s.targeted f) (hKey : s.key.loaded = true) :
    exec .bbramProgram s = .next (
      if Config.bbramProgramKeyBits > Config.maxShiftBits then takeFault .shiftTooLong (s.withPseq Seq.empty)
      else afterFixed (bbramProgramSeq f s.port.irLen.toNat s.key.bytes) (complete .nothing) (s.withPseq Seq.empty)) := by
  have hExec : exec .bbramProgram s = execBbramProgram s := rfl
  rw [hExec, execBbramProgram, protocolOperation_targeted h, withKey_loaded (s := s.withPseq Seq.empty) hKey]
  rfl

/-- Settles O44: the account of the fixed sequence (`bbramProgramSeq_plays`). -/
theorem bbramProgram : Obligations.BbramProgram := by
  intro s f hTarget hKey
  rw [exec_bbramProgram_targeted hTarget hKey]
  split
  next hLong => rfl
  next hShort =>
    obtain ⟨-, hPos, hMax⟩ := hTarget.length
    obtain ⟨samples, hFixed⟩ := (bbramProgramSeq_plays s.port f hPos hMax s.key.bytes (Nat.le_of_not_lt hShort)).fixed hTarget.1
    rw [afterFixed_live hFixed.fault]
    generalize runFixed (bbramProgramSeq f s.port.irLen.toNat s.key.bytes) (s.withPseq Seq.empty) = u at hFixed
    have hPulses := hFixed.clocked.count
    rw [bbramProgramTms_length _ hPos] at hPulses
    exact ⟨_, rfl, hFixed.fault, rfl, rfl, hFixed.cur, hPulses, hFixed.clocked.droveTdi, hFixed.clocked.droveTms,
      hFixed.clocked.droveHwm, hFixed.seqs, undrive_complete hFixed.clocked.drives .nothing⟩

/-! ## BBRAM_VERIFY -/

/-- The TMS bits of one read word. -/
def readTms (p : Port) (len : Nat) : List Bool :=
  scanTms idleToShiftIr (p.irPads + len) ++ scanTms idleToShiftDr (p.drPads + 37) ++ [false]

/-- The capture of one read word, from the room and the clocks before it. -/
def readCapture (p : Port) (len room before : Nat) : Capture :=
  ⟨room + 1, before + (4 + p.irPads + len + 2) + (3 + p.drPre.toNat), 37⟩

theorem readWord_round (p : Port) (f : Family) {len : Nat} (hPos : 1 ≤ len) (hMax : len < 2 ^ 23) :
    Round p (Seq.readWord f len) (readTms p len)
      (fun _ => scanBits p .ir len (Config.deviceOpcode .iscRead f) ++ paddedStream p .dr (List.replicate 37 false))
      (fun room before => [readCapture p len room before]) where
  room := fun v k => by simp [Seq.readWord]
  plays := fun v k tms tdi captures hRoom h => by
    have hWord := ((h.loadIr hPos hMax (by omega) (Config.deviceOpcode .iscRead f)).drScanFillCapture (n := 37) (by decide) (by decide)
      false (by rw [Seq.loadIr_room]; omega)).idleFor (n := Config.bbramReadIdle) (by decide)
    rw [scanFrom_idleIr, scanFrom_idleDr, Seq.loadIr_room] at hWord
    have hOffset : (tms ++ scanTms idleToShiftIr (p.irPads + len)).length + (enterPulses .idle .dr + p.prePad .dr) =
        (readCapture p len v.pool.length tms.length).offset := by
      rw [List.length_append, scanTms_length _ (by omega)]
      show _ + (4 + _ + 2) + (3 + p.drPre.toNat) = tms.length + _ + (3 + p.drPre.toNat)
      omega
    rw [hOffset] at hWord
    rw [readTms, ← List.append_assoc, ← List.append_assoc, ← List.append_assoc]
    exact hWord

theorem readTms_length (p : Port) (hPos : 1 ≤ p.irLen.toNat) : (readTms p p.irLen.toNat).length = readWordClocks p := by
  unfold readTms
  simp only [List.length_append]
  rw [scanTms_length _ (by omega), scanTms_length _ (by omega), readWordClocks]
  show 4 + _ + 2 + (3 + _ + 2) + 1 = _
  omega

/-- The TMS bits of BBRAM_VERIFY before its reads. -/
def verifyEnableTms (p : Port) (len : Nat) : List Bool :=
  scanTms (enterTms p.cur .ir) (p.irPads + len) ++ scanTms idleToShiftDr (p.drPads + 5) ++ List.replicate 12 false

/-- The capture of read word `k`. -/
def verifyCapture (p : Port) (k : Nat) : Capture :=
  readCapture p p.irLen.toNat (2 + 2 * k) ((verifyEnableTms p p.irLen.toNat).length + k * (readTms p p.irLen.toNat).length)

theorem bbramVerifySeq_plays (p : Port) (f : Family) (hPos : 1 ≤ p.irLen.toNat) (hMax : p.irLen.toNat < 2 ^ 23) :
    Plays p (bbramVerifySeq f p.irLen.toNat) .idle
      (verifyEnableTms p p.irLen.toNat ++ (List.replicate 8 (readTms p p.irLen.toNat)).flatten)
      (irBits p .iscEnable f ++ scanBits p .dr 5 Config.bbramEnableDr.toNat ++
        (List.finRange 8).flatMap fun _ => irBits p .iscRead f ++ paddedStream p .dr (List.replicate 37 false))
      ((List.range 8).map (verifyCapture p)) := by
  have hEnabled := (Plays.empty p).iscEnable f hPos hMax (by decide)
  rw [List.nil_append, List.nil_append, scanFrom, Port.pads_ir] at hEnabled
  have hLoop := (readWord_round p f hPos hMax).foldl_plays hEnabled (List.finRange 8) (by simp [Seq.empty])
  rw [List.length_finRange, Seq.iscEnable_room, List.nil_append] at hLoop
  have hCaptures : (List.range 8).map (verifyCapture p) = (List.range 8).flatMap fun k => [verifyCapture p k] := List.map_eq_flatMap
  rw [hCaptures]
  exact hLoop

/-- The samples of read word `k` that are its caller's, counted from the end of the sequence. -/
theorem verifyCapture_end (p : Port) (hPos : 1 ≤ p.irLen.toNat) (k : Fin 8) :
    (verifyCapture p k.val).offset + (verifyCapture p k.val).bits + ((7 - k.val) * readWordClocks p + 3 + p.drPost.toNat) =
      (verifyEnableTms p p.irLen.toNat ++ (List.replicate 8 (readTms p p.irLen.toNat)).flatten).length := by
  have hRounds : k.val * readWordClocks p + readWordClocks p + (7 - k.val) * readWordClocks p = 8 * readWordClocks p := by
    have hk := k.isLt
    rw [← Nat.succ_mul, ← Nat.add_mul]
    congr 1
    omega
  rw [List.length_append, length_flatten_replicate, readTms_length p hPos, ← hRounds, verifyCapture, readCapture, readTms_length p hPos]
  dsimp only
  generalize k.val * readWordClocks p = before
  generalize (7 - k.val) * readWordClocks p = after
  unfold readWordClocks Port.drPads
  omega

theorem exec_bbramVerify_targeted {s : State} {f : Family} (h : s.targeted f) (hKey : s.key.loaded = true) :
    exec .bbramVerify s = .next (afterFixed (bbramVerifySeq f s.port.irLen.toNat) finishVerify (s.withPseq Seq.empty)) := by
  have hExec : exec .bbramVerify s = execBbramVerify s := rfl
  rw [hExec, execBbramVerify, protocolOperation_targeted h, withKey_loaded (s := s.withPseq Seq.empty) hKey]

/-- Everything the end of BBRAM_VERIFY writes: the read-back registers and the outcome of their checks. -/
theorem finishVerify_cases (u : State) :
    (checkReadback u.key (captureReadback u) = none ∧ finishVerify u = complete .nothing (u.withReadback (captureReadback u))) ∨
      ∃ e, checkReadback u.key (captureReadback u) = some e ∧ finishVerify u = raiseError e (u.withReadback (captureReadback u)) := by
  have hFinish : finishVerify u = (checkReadback u.key (captureReadback u)).elim (complete .nothing (u.withReadback (captureReadback u)))
      fun e => raiseError e (u.withReadback (captureReadback u)) := by
    unfold finishVerify
    dsimp only [State.withReadback_key, State.withReadback_readback]
    cases checkReadback u.key (captureReadback u) <;> rfl
  rw [hFinish]
  cases checkReadback u.key (captureReadback u) with
  | none => exact .inl ⟨rfl, rfl⟩
  | some e => exact .inr ⟨e, rfl, rfl⟩

/-- The frame of BBRAM_VERIFY: the read-back registers and the outcome of a driven state. -/
theorem undrive_withReadback {s u : State} (h : Drives s (rebuffer s u)) (r : Readback) (w : BitVec 32) (v : Returned) :
    undrive s ((rebuffer s (((u.withReadback r).withResult w).withReturned v)).withReadback s.readback) = s := by
  have hBack : u.readback = s.readback := h.readback
  have hEq := h.eq
  rw [← hBack]
  cases s
  cases u
  simp only [undrive, rebuffer, State.setCur, State.withPort, State.withPins, State.withTrace, State.withEnv, State.withResult,
    State.withReturned, State.withSeqs, State.withPseq, State.withExec, State.withReadback, State.mk.injEq] at hEq ⊢
  obtain ⟨-, -, hChain, hIdList, -, -, -, hKey, hReadback, -, hFault, -, hQueue, -⟩ := hEq
  exact ⟨h.port, trivial, hChain, hIdList, trivial, trivial, trivial, hKey, hReadback, trivial, hFault, trivial, hQueue, trivial,
    trivial⟩

/-- Settles O45: the account of the fixed sequence and its captures (`bbramVerifySeq_plays`), then the outcome of the checks
(`finishVerify_cases`). -/
theorem bbramVerify : Obligations.BbramVerify := by
  intro s f hTarget hKey
  obtain ⟨-, hPos, hMax⟩ := hTarget.length
  obtain ⟨samples, hFixed⟩ := (bbramVerifySeq_plays s.port f hPos hMax).fixed hTarget.1
  rw [exec_bbramVerify_targeted hTarget hKey, afterFixed_live hFixed.fault]
  generalize runFixed (bbramVerifySeq f s.port.irLen.toNat) (s.withPseq Seq.empty) = u at hFixed
  have hSameKey : u.key = s.key := hFixed.clocked.drives.key
  have hPulses : s.port.cur = .idle → pulsed s u ((4 + s.port.irPads + s.port.irLen.toNat + 2) + (3 + s.port.drPads + 5 + 2) + 12 +
      8 * readWordClocks s.port) := fun hIdle => by
    have hCount := hFixed.clocked.count
    rw [List.length_append, length_flatten_replicate, readTms_length _ hPos, verifyEnableTms, hIdle] at hCount
    simp only [List.length_append, List.length_replicate] at hCount
    rw [scanTms_length _ (by omega), scanTms_length _ (by omega)] at hCount
    refine Eq.trans hCount ?_
    show _ + (4 + (_ + _) + 2 + (3 + (_ + _) + 2) + 12 + _) = _
    omega
  have hStreams : ∀ k : Fin 8, pseqStream (bbramCaptureHandle k.val) Config.bbramReadBits u =
      samplesBefore u ((7 - k.val) * readWordClocks s.port + 3 + s.port.drPost.toNat) 37 := fun k => by
    have hHandle : (verifyCapture s.port k.val).handle = bbramCaptureHandle k.val := by
      show 2 + 2 * k.val + 1 = 3 + 2 * k.val
      omega
    rw [← hHandle]
    exact hFixed.samplesBefore (List.mem_map.mpr ⟨k.val, List.mem_range.mpr k.isLt, rfl⟩) (verifyCapture_end s.port hPos k)
  have hWords : ∀ (k : Fin 8) (j : Nat), j < 32 → (captureReadback u).words[k.val].getLsbD j =
      (samplesBefore u ((7 - k.val) * readWordClocks s.port + 3 + s.port.drPost.toNat) 37).getD j false := fun k j hj => by
    have hDrop := getD_drop_take (samplesBefore u ((7 - k.val) * readWordClocks s.port + 3 + s.port.drPost.toNat) 37) (from' := 0) hj
    rw [List.drop_zero, Nat.zero_add] at hDrop
    rw [captureReadback, Vector.getElem_ofFn, scanWord, ofNat_bitsNat_bit _ _ hj, hStreams k, hDrop]
  have hStatus : ∀ (k : Fin 8) (j : Nat), j < 5 → (captureReadback u).status[k.val].getLsbD j =
      (samplesBefore u ((7 - k.val) * readWordClocks s.port + 3 + s.port.drPost.toNat) 37).getD (32 + j) false := fun k j hj => by
    rw [captureReadback, Vector.getElem_ofFn, scanStatus, ofNat_bitsNat_bit _ _ hj, hStreams k, getD_drop_take _ hj]
  have hFrame := undrive_withReadback hFixed.clocked.drives
  have hCases := finishVerify_cases u
  generalize captureReadback u = r at hWords hStatus hCases
  rcases hCases with ⟨hCheck, hFinish⟩ | ⟨e, hCheck, hFinish⟩
  · rw [hFinish]
    refine ⟨_, rfl, hFixed.fault, hFixed.cur, rfl, ?_, hPulses, hFixed.clocked.droveTdi, hFixed.clocked.droveTms,
      fun k j => ⟨hWords k j, hStatus k j⟩, hFixed.clocked.droveHwm, hFixed.seqs, hFrame r _ _⟩
    show _ = match checkReadback s.key r with | none => _ | some e => _
    rw [← hSameKey, hCheck]
    rfl
  · rw [hFinish]
    refine ⟨_, rfl, hFixed.fault, hFixed.cur, rfl, ?_, hPulses, hFixed.clocked.droveTdi, hFixed.clocked.droveTms,
      fun k j => ⟨hWords k j, hStatus k j⟩, hFixed.clocked.droveHwm, hFixed.seqs, hFrame r _ _⟩
    show _ = match checkReadback s.key r with | none => _ | some e => _
    rw [← hSameKey, hCheck]
    rfl

end Sys2Proof.Machine
end

section
/-! PROOF. Scan-chain discovery (44_discovery.md): what DETECT_TAPS drives and writes, the decoder on the stream a chain presents (R133 to
R136), and the stream that a chain of reference TAPs presents (60_exceptions.md R191, R192). -/

namespace Sys2Proof.Machine

open Sys2Proof

/-! ## The chain of a decoded list -/

theorem chainOf_getElem? (i : Nat) (l : List IdEntry) (k : Nat) : (chainOf i l)[k]? = l[k]?.map (nodeOf (i + k)) := by
  induction l generalizing i k with
  | nil => rfl
  | cons e rest ih =>
    cases k with
    | zero => rfl
    | succ k => rw [chainOf, List.getElem?_cons_succ, List.getElem?_cons_succ, ih, Nat.add_right_comm, Nat.add_assoc]

theorem nodeOf_entry (i : Nat) (e : IdEntry) : (nodeOf i e).entry = e := by cases e <;> rfl

theorem chainOf_entries (i : Nat) (l : List IdEntry) : (chainOf i l).map Node.entry = l := by
  induction l generalizing i with
  | nil => rfl
  | cons e rest ih => rw [chainOf, List.map_cons, ih, nodeOf_entry]

/-- The nodes of a decoded list: their places as ordinals, no IR length and none active (44_discovery.md R137). -/
theorem chainOf_node {l : List IdEntry} {k : Nat} {n : Node} (h : (chainOf 0 l)[k]? = some n) :
    n.ordinal = BitVec.ofNat 8 k ∧ n.irLength = 0#8 ∧ n.active = false := by
  rw [chainOf_getElem?, Nat.zero_add] at h
  obtain ⟨e, -, rfl⟩ := Option.map_eq_some_iff.mp h
  cases e <;> exact ⟨rfl, rfl, rfl⟩

/-! ## DETECT_TAPS -/

theorem discoveryTms_eq :
    discoveryTms = [true, true, true, true, true] ++ [false, true, false, false] ++
      (List.replicate (32 * (Config.maxTaps + 1) - 1) false ++ [true]) ++ [true, false] := by
  have hIn : navBits .reset .shiftDR = [false, true, false, false] := by decide
  have hOut : navBits .exit1DR .idle = [true, false] := by decide
  rw [discoveryTms, hIn, hOut, dummyStream_length, shiftTms_eq _ (by omega)]
  rfl

/-- The scan ends in `Idle` (44_discovery.md R130). -/
theorem discoveryScan_cur (s : State) : (discoveryScan s).2.port.cur = .idle := by
  unfold discoveryScan
  dsimp only
  split
  · exact navigateTo_cur _ _
  next hStay => exact Decidable.of_not_not hStay

/-- The frame of DETECT_TAPS: the Port, both lists and the outcome of a driven state. -/
theorem undrive_discovery {s u : State} {p : Port} (h : Drives (s.withPort p) u) (l : List IdEntry) (c : List Node) (w : BitVec 32)
    (v : Returned) :
    undrive s (((((((u.withIdList l).withChain c).withResult w).withReturned v).withPort s.port).withIdList s.idList).withChain s.chain) =
      s := by
  rw [h.eq]
  cases s
  rfl

/-- Settles O29: the account of the scan (`discoveryScan_clocked`), then the lists its samples decode to. -/
theorem detectTaps : Obligations.DetectTaps := by
  intro s hReady
  obtain ⟨walkIn, walkOut, hIn, hOut, hScan⟩ := discoveryScan_clocked s
  have hCur := discoveryScan_cur s
  have hCases := exec_detectTaps_cases hReady
  generalize discoveryScan s = scan at hScan hCur hCases
  have hPort : scan.2.port = { s.port with
      cur := .idle, irPre := 0#16, irPost := 0#16, drPre := 0#16, drPost := 0#16, target := 0xFF#8 } := by
    rw [hScan.drives.port_withCur, hCur]
    rfl
  have hCount : scan.1.length = 32 * (Config.maxTaps + 1) := by
    have hAll := hScan.sampledCount
    rw [discoveryTms_length, List.length_append, List.length_append, hIn, hOut] at hAll
    omega
  have hTms := hScan.droveTms
  rw [discoveryTms_eq] at hTms
  rcases hCases with ⟨hDecoded, hExec⟩ | ⟨l, hDecoded, hExec⟩
  · refine ⟨_, walkIn, scan.1, walkOut, hExec, hIn, hCount, hOut, hScan.sampled, hTms, hScan.droveTdi, hScan.droveHwm, hPort, ?_,
      undrive_discovery hScan.drives _ _ _ _⟩
    rw [hDecoded]
    exact ⟨rfl, rfl, rfl, rfl⟩
  · refine ⟨_, walkIn, scan.1, walkOut, hExec, hIn, hCount, hOut, hScan.sampled, hTms, hScan.droveTdi, hScan.droveHwm, hPort, ?_,
      undrive_discovery hScan.drives _ _ _ _⟩
    rw [hDecoded]
    exact ⟨rfl, rfl, rfl, chainOf_entries 0 l, fun _ _ => chainOf_node⟩

/-! ## The decoder on a chain's stream -/

theorem bitsNat_natBits {n v : Nat} (h : v < 2 ^ n) : bitsNat (natBits n v) = v := by
  refine Nat.eq_of_testBit_eq fun i => ?_
  rw [bitsNat_testBit, natBits]
  by_cases hi : i < n
  · simp [List.getD_eq_getElem?_getD, hi]
  · rw [List.getD_eq_default _ _ (by simpa using hi), Nat.testBit_lt_two_pow (h.trans_le (Nat.pow_le_pow_right (by decide) (by omega)))]

/-- The word at the front of a stream that begins with the bits of `v`. -/
theorem chainWord_natBits (v : BitVec 32) (rest : List Bool) : chainWord (natBits 32 v.toNat ++ rest) = v := by
  have hTake : (natBits 32 v.toNat ++ rest).take 32 = natBits 32 v.toNat := by
    rw [List.take_append_of_le_length (natBits_length 32 _).ge, List.take_of_length_le (natBits_length 32 _).le]
  rw [chainWord, hTake, bitsNat_natBits v.isLt, BitVec.ofNat_toNat, BitVec.setWidth_eq]

theorem decodeChain_sentinel {dummy : BitVec 32} {c : List Bool} (hLong : 32 ≤ c.length) (hWord : chainWord c = dummy) (room : Nat) :
    decodeChain dummy room c = some [] := by
  cases room <;> rw [decodeChain, if_neg (Nat.not_lt.mpr hLong), if_pos hWord]

/-- The decoder on a stream that begins with an ID code other than the sentinel. -/
theorem decodeChain_idCode {dummy v : BitVec 32} {rest : List Bool} (hOdd : v.getLsbD 0 = true) (hOther : v ≠ dummy) (left : Nat) :
    decodeChain dummy (left + 1) (natBits 32 v.toNat ++ rest) = (decodeChain dummy left rest).map (IdEntry.idCode v :: ·) := by
  have hWord := chainWord_natBits v rest
  have hLead : (natBits 32 v.toNat ++ rest).headD false = true := by rw [← chainWord_leading, hWord, hOdd]
  have hDrop : (natBits 32 v.toNat ++ rest).drop 32 = rest := by
    rw [List.drop_append_of_le_length (natBits_length 32 _).ge, List.drop_of_length_le (natBits_length 32 _).le, List.nil_append]
  rw [decodeChain, if_neg (by rw [List.length_append, natBits_length]; omega), if_neg (by rw [hWord]; exact hOther), if_pos hLead, hDrop,
    hWord]

/-- The decoder on a stream that begins with a bypass bit. -/
theorem decodeChain_bypass {dummy : BitVec 32} {rest : List Bool} (hDummy : dummy.getLsbD 0 = true) (hLong : 32 ≤ rest.length) (left : Nat) :
    decodeChain dummy (left + 1) (false :: rest) = (decodeChain dummy left rest).map (IdEntry.bypass :: ·) := by
  have hOther : chainWord (false :: rest) ≠ dummy := fun h => by
    rw [← h, chainWord_leading] at hDummy
    cases hDummy
  rw [decodeChain, if_neg (by rw [List.length_cons]; omega), if_neg hOther,
    if_neg (show ¬ (false :: rest).headD false = true from Bool.false_ne_true)]
  rfl

/-- Settles O30: by induction on the entries, one step of the decoder each. -/
theorem decodeChainComplete : Obligations.DecodeChainComplete := by
  intro dummy maxTaps l after hDummy hRoom hIds
  induction l generalizing maxTaps with
  | nil =>
    exact decodeChain_sentinel (by simp [natBits_length]) (chainWord_natBits dummy after) maxTaps
  | cons e rest ih =>
    obtain ⟨left, rfl⟩ : ∃ left, maxTaps = left + 1 := ⟨maxTaps - 1, by rw [List.length_cons] at hRoom; omega⟩
    have hRest := ih left (by rw [List.length_cons] at hRoom; omega) fun v hv => hIds v (List.mem_cons_of_mem _ hv)
    rw [List.map_cons, List.flatten_cons, List.append_assoc, List.append_assoc, ← List.append_assoc _ (natBits 32 _) after]
    cases e with
    | idCode v =>
      obtain ⟨hOdd, hOther⟩ := hIds v List.mem_cons_self
      rw [IdEntry.bits, decodeChain_idCode hOdd hOther, hRest]
      rfl
    | bypass =>
      have hLong : 32 ≤ ((rest.map IdEntry.bits).flatten ++ natBits 32 dummy.toNat ++ after).length := by
        simp only [List.length_append, natBits_length]
        omega
      rw [IdEntry.bits, List.singleton_append, decodeChain_bypass hDummy hLong, hRest]
      rfl

/-! ## A chain of reference TAPs -/

/-- The environment of `s` is a chain of TAPs that the next rising TCK edge clocks. -/
structure Wired (s : State) (taps : List Tap) : Prop where
  tckLow : s.pins.tck = false
  chain : s.env.bench.bind Bench.chain = some taps

theorem Wired.bench {s : State} {taps : List Tap} (h : Wired s taps) : ∃ b, s.env.bench = some b ∧ b.chain = some taps :=
  Option.bind_eq_some_iff.mp h.chain

theorem risingEdge_bench {e : Env} {b : Bench} {taps : List Tap} (hBench : e.bench = some b) (hChain : b.chain = some taps)
    (tms tdi : Bool) : (e.risingEdge tms tdi).bench =
      some { b with chain := some (chainClock tms tdi taps).2, tdo := (chainClock tms tdi taps).1 } := by
  simp only [Env.risingEdge, hBench, hChain]

theorem sample_tdo {e : Env} {b : Bench} {taps : List Tap} (hBench : e.bench = some b) (hChain : b.chain = some taps) (pins : Pins)
    (trace : List Event) : e.sample pins trace .tdo = b.tdo := by
  simp only [Env.sample, hBench, hChain]

/-- One clock, as the chain sees it (60_exceptions.md R192): the sample is what TAP 0 drives. -/
theorem clock_wired {s : State} {taps : List Tap} (h : Wired s taps) (tms : Bool) (tdi : Option Bool) :
    (clock tms tdi s).1 = (chainClock tms (tdi.getD s.pins.tdi) taps).1 ∧
      Wired (clock tms tdi s).2 (chainClock tms (tdi.getD s.pins.tdi) taps).2 := by
  obtain ⟨b, hBench, hChain⟩ := h.bench
  have hEdge : (pinWrite .tck true (driveTdi tdi (pinWrite .tms tms s))).env = s.env.risingEdge tms (tdi.getD s.pins.tdi) := by
    cases tdi <;>
      (show (if true && !s.pins.tck then _ else _) = _
       rw [h.tckLow]
       rfl)
  have hAfter := risingEdge_bench hBench hChain tms (tdi.getD s.pins.tdi)
  rw [← hEdge] at hAfter
  have hEnv : (clock tms tdi s).2.env = (pinWrite .tck true (driveTdi tdi (pinWrite .tms tms s))).env := by
    have hRead := sampled_tdo (pinWrite .tck true (driveTdi tdi (pinWrite .tms tms s))).env
      (pinRead .tdo (pinWrite .tck true (driveTdi tdi (pinWrite .tms tms s)))).1
    exact hRead
  refine ⟨sample_tdo hAfter rfl _ _, rfl, ?_⟩
  rw [hEnv, hAfter]
  rfl

/-! ## One clock of a TAP -/

/-- The instruction a TAP holds after a reset (60_exceptions.md R191). -/
def Tap.resetInstr (t : Tap) : TapInstr := if t.id.isSome then .idcode else .bypass

@[simp] theorem Tap.captureDr_id (t : Tap) : t.captureDr.id = t.id := by
  unfold Tap.captureDr
  split <;> rfl

@[simp] theorem Tap.updateDr_id (t : Tap) : t.updateDr.id = t.id := by
  unfold Tap.updateDr
  split <;> rfl

@[simp] theorem Tap.updateIr_id (t : Tap) : t.updateIr.id = t.id := by
  unfold Tap.updateIr
  dsimp only
  split <;> rfl

@[simp] theorem Tap.captureDr_ir (t : Tap) : t.captureDr.ir = t.ir := by
  unfold Tap.captureDr
  split <;> rfl

theorem tapClock_ts (t : Tap) (tms tdi : Bool) : (tapClock t tms tdi).2.ts = t.ts.next tms := by
  simp only [tapClock]
  split <;> rfl

theorem tapClock_id (t : Tap) (tms tdi : Bool) : (tapClock t tms tdi).2.id = t.id := by
  simp only [tapClock]
  cases t.ts <;> split <;> simp

theorem tapClock_ir_of_reset {t : Tap} {tms : Bool} (h : t.ts.next tms = .reset) (tdi : Bool) : (tapClock t tms tdi).2.ir = t.resetInstr := by
  simp only [tapClock, h, if_true]
  rfl

/-! ## The chain from any state to the capture -/

/-- `s` holds a chain whose TAPs stand to those of `taps` as `P` says. -/
def Chained (P : Tap → Tap → Prop) (taps : List Tap) (s : State) : Prop := ∃ taps', Wired s taps' ∧ List.Forall₂ P taps taps'

theorem Chained.imp {P Q : Tap → Tap → Prop} {taps : List Tap} {s : State} (hImp : ∀ t t', P t t' → Q t t') (h : Chained P taps s) :
    Chained Q taps s := by
  obtain ⟨taps', hWired, hTaps⟩ := h
  exact ⟨taps', hWired, hTaps.imp hImp⟩

theorem chainClock_forall₂ {P Q : Tap → Tap → Prop} {tms : Bool} (hStep : ∀ t t' x, P t t' → Q t (tapClock t' tms x).2) {taps taps' : List Tap}
    (h : List.Forall₂ P taps taps') (tdi : Bool) : List.Forall₂ Q taps (chainClock tms tdi taps').2 := by
  induction h with
  | nil => exact .nil
  | cons hTap _ ih => exact .cons (hStep _ _ _ hTap) ih

theorem Chained.clock {P Q : Tap → Tap → Prop} {taps : List Tap} {s : State} {tms : Bool} (h : Chained P taps s)
    (hStep : ∀ t t' x, P t t' → Q t (tapClock t' tms x).2) (tdi : Option Bool) : Chained Q taps (clock tms tdi s).2 := by
  obtain ⟨taps', hWired, hTaps⟩ := h
  exact ⟨_, (clock_wired hWired tms tdi).2, chainClock_forall₂ hStep hTaps _⟩

/-- `t'` is the TAP `t` after the TMS bits `bits`, as far as a reset can tell. -/
def TapWalked (bits : List Bool) (t t' : Tap) : Prop :=
  t'.id = t.id ∧ t'.ts = bits.foldl TapState.next t.ts ∧ (bits ≠ [] → t'.ts = .reset → t'.ir = t.resetInstr)

theorem Tap.resetInstr_congr {t t' : Tap} (h : t'.id = t.id) : t'.resetInstr = t.resetInstr := by
  unfold Tap.resetInstr
  rw [h]

theorem tapClock_walked {bits : List Bool} {t t' : Tap} (h : TapWalked bits t t') (tms x : Bool) :
    TapWalked (bits ++ [tms]) t (tapClock t' tms x).2 := by
  obtain ⟨hId, hState, -⟩ := h
  refine ⟨(tapClock_id _ _ _).trans hId, ?_, fun _ hReset => ?_⟩
  · rw [tapClock_ts, hState, List.foldl_append]
    rfl
  · rw [tapClock_ts] at hReset
    exact (tapClock_ir_of_reset hReset x).trans (Tap.resetInstr_congr hId)

theorem Chained.walk {taps : List Tap} {done : List Bool} {s : State} (h : Chained (TapWalked done) taps s) (bits : List Bool) :
    Chained (TapWalked (done ++ bits)) taps (walk bits s) := by
  induction bits generalizing done s with
  | nil => rwa [List.append_nil]
  | cons tms rest ih =>
    have hNext := ih (h.clock (fun _ _ x hTap => tapClock_walked hTap tms x) none)
    rwa [List.append_assoc] at hNext

/-- `t'` is the TAP `t` in state `st`, with the instruction a reset selects. -/
def TapAt (st : TapState) (t t' : Tap) : Prop := t'.id = t.id ∧ t'.ts = st ∧ t'.ir = t.resetInstr

/-- Five TMS-high clocks reset every TAP, whatever state it is in (10_state.md R24). -/
theorem navigateTo_reset_chained {s : State} {taps : List Tap} (h : Wired s taps) : Chained (TapAt .reset) taps (navigateTo .reset s) := by
  have hStart : Chained (TapWalked []) taps s := ⟨taps, h, List.forall₂_same.mpr fun t _ => ⟨rfl, rfl, fun h => absurd rfl h⟩⟩
  refine Chained.imp (fun t t' hTap => ?_) (hStart.walk (List.replicate Config.resetClocks true))
  obtain ⟨hId, hState, hInstr⟩ := hTap
  have hReset : t'.ts = .reset := hState.trans (navBits_reaches t.ts .reset)
  exact ⟨hId, hReset, hInstr (by decide) hReset⟩

theorem tapClock_at {st : TapState} {tms : Bool} (hQuiet : st = .reset ∨ st = .idle ∨ st = .selectDR) (hNext : st.next tms ≠ .reset)
    {t t' : Tap} (x : Bool) (h : TapAt st t t') : TapAt (st.next tms) t (tapClock t' tms x).2 := by
  obtain ⟨hId, hState, hInstr⟩ := h
  refine ⟨(tapClock_id _ _ _).trans hId, by rw [tapClock_ts, hState], ?_⟩
  rw [← hState] at hNext
  rw [← hInstr]
  simp only [tapClock, if_neg hNext]
  rcases hQuiet with rfl | rfl | rfl <;> rw [hState]

/-- `t'` is the TAP `t` in `ShiftDR` with its entry captured (60_exceptions.md R191). -/
def TapCaptured (t t' : Tap) : Prop := t'.ts = .shiftDR ∧ t'.dr = t.entry.bits

theorem captureDr_entry {t t' : Tap} (hId : t'.id = t.id) (hInstr : t'.ir = t.resetInstr) : t'.captureDr.dr = t.entry.bits := by
  unfold Tap.captureDr Tap.selected Tap.entry
  rw [hInstr, Tap.resetInstr]
  cases hCode : t.id with
  | none => rfl
  | some v =>
    simp only [Option.isSome_some, if_true, Tap.idSelected, hId, hCode]
    rfl

theorem tapClock_captured {t t' : Tap} (x : Bool) (h : TapAt .captureDR t t') : TapCaptured t (tapClock t' false x).2 := by
  obtain ⟨hId, hState, hInstr⟩ := h
  have hNext : t'.ts.next false ≠ .reset := by rw [hState]; decide
  refine ⟨by rw [tapClock_ts, hState]; rfl, ?_⟩
  rw [← captureDr_entry hId hInstr]
  simp only [tapClock, if_neg hNext]
  rw [hState]

/-- The walk to `ShiftDR` captures every TAP's entry. -/
theorem navigateTo_shift_chained {s : State} {taps : List Tap} (h : Chained (TapAt .reset) taps s) (hCur : s.port.cur = .reset) :
    Chained TapCaptured taps (navigateTo .shiftDR s) := by
  have hWalk : navigateTo .shiftDR s = walk [false, true, false, false] s := by
    rw [navigateTo, hCur, if_neg (by decide), if_neg (by decide)]
    rfl
  rw [hWalk]
  have hIdle := h.clock (fun _ _ x => tapClock_at (tms := false) (.inl rfl) (by decide) x) none
  have hSelect := hIdle.clock (fun _ _ x => tapClock_at (tms := true) (.inr (.inl rfl)) (by decide) x) none
  have hCapture := hSelect.clock (fun _ _ x => tapClock_at (tms := false) (.inr (.inr rfl)) (by decide) x) none
  exact hCapture.clock (fun _ _ x => tapClock_captured x) none

/-! ## The chain while it shifts -/

/-- The bits in the data registers of a chain, TAP 0's first. -/
def chainBits (taps : List Tap) : List Bool := (taps.map Tap.dr).flatten

/-- Every TAP is in `ShiftDR`, with a data register that holds at least one bit. -/
def Shifting (taps : List Tap) : Prop := ∀ t ∈ taps, t.ts = .shiftDR ∧ t.dr ≠ []

theorem shifting_nil : Shifting [] := fun _ ht => absurd ht List.not_mem_nil

theorem tapClock_shift {t : Tap} (h : t.ts = .shiftDR) (tms tdi : Bool) :
    (tapClock t tms tdi).1 = t.dr.headD false ∧ (tapClock t tms tdi).2.dr = shiftIn t.dr tdi := by
  have hNext : t.ts.next tms ≠ .reset := by rw [h]; cases tms <;> decide
  simp only [tapClock, if_neg hNext]
  simp only [h, and_self]

/-- One shift clock of a chain: its bits move one place, TDI in at the end, the first one out. -/
theorem chainClock_shift {taps : List Tap} (h : Shifting taps) (tms tdi : Bool) :
    (chainClock tms tdi taps).1 :: chainBits (chainClock tms tdi taps).2 = chainBits taps ++ [tdi] ∧
      (tms = false → Shifting (chainClock tms tdi taps).2) := by
  induction taps with
  | nil => exact ⟨rfl, fun _ => shifting_nil⟩
  | cons t rest ih =>
    obtain ⟨hRest, hRestShifting⟩ := ih fun t ht => h t (List.mem_cons_of_mem _ ht)
    obtain ⟨hState, hBits⟩ := h t List.mem_cons_self
    obtain ⟨hOut, hNext⟩ := tapClock_shift hState tms (chainClock tms tdi rest).1
    obtain ⟨b, bs, hDr⟩ := List.exists_cons_of_ne_nil hBits
    refine ⟨?_, fun hStay t' ht' => ?_⟩
    · show (tapClock t tms (chainClock tms tdi rest).1).1 :: ((tapClock t tms (chainClock tms tdi rest).1).2.dr ++
        chainBits (chainClock tms tdi rest).2) = (t.dr ++ chainBits rest) ++ [tdi]
      rw [List.append_assoc, ← hRest, hOut, hNext, shiftIn, hDr]
      simp
    · rcases List.mem_cons.mp ht' with rfl | ht'
      · refine ⟨by rw [tapClock_ts, hState, hStay]; rfl, ?_⟩
        rw [hNext, shiftIn]
        simp
      · exact hRestShifting hStay t' ht'

/-- What a chain presents while bits are shifted in: its own bits, then those shifted in. -/
theorem shiftClocks_wired {s : State} {taps : List Tap} (h : Wired s taps) (hShifting : Shifting taps) (leave : Bool) (bits : List Bool) :
    (shiftClocks leave bits s).1 = (chainBits taps ++ bits).take bits.length := by
  induction bits generalizing s taps with
  | nil => rw [List.length_nil, List.take_zero]; rfl
  | cons b rest ih =>
    obtain ⟨hSample, hWired⟩ := clock_wired h (leave && rest.isEmpty) (some b)
    obtain ⟨hMove, hStay⟩ := chainClock_shift hShifting (leave && rest.isEmpty) b
    have hRest : (shiftClocks leave rest (clock (leave && rest.isEmpty) (some b) s).2).1 =
        (chainBits (chainClock (leave && rest.isEmpty) b taps).2 ++ rest).take rest.length := by
      cases rest with
      | nil => rfl
      | cons c more => exact ih hWired (hStay (Bool.and_false leave))
    show (clock (leave && rest.isEmpty) (some b) s).1 :: (shiftClocks leave rest (clock (leave && rest.isEmpty) (some b) s).2).1 = _
    rw [hRest, hSample, Option.getD_some, List.append_cons, ← hMove, List.cons_append, List.length_cons, List.take_succ_cons]

/-! ## DETECT_TAPS on the chain -/

theorem IdEntry.bits_ne_nil (e : IdEntry) : e.bits ≠ [] := by
  cases e with
  | idCode v => exact List.ne_nil_of_length_pos (by rw [IdEntry.bits, natBits_length]; omega)
  | bypass => simp [IdEntry.bits]

theorem captured_bits {taps taps' : List Tap} (h : List.Forall₂ TapCaptured taps taps') :
    chainBits taps' = ((taps.map Tap.entry).map IdEntry.bits).flatten ∧ Shifting taps' := by
  induction h with
  | nil => exact ⟨rfl, shifting_nil⟩
  | cons hTap _ ih =>
    obtain ⟨hState, hBits⟩ := hTap
    obtain ⟨hRest, hShifting⟩ := ih
    refine ⟨?_, fun t ht => ?_⟩
    · rw [chainBits, List.map_cons, List.flatten_cons, hBits, ← chainBits, hRest]
      rfl
    · rcases List.mem_cons.mp ht with rfl | ht
      · refine ⟨hState, ?_⟩
        rw [hBits]
        exact IdEntry.bits_ne_nil _
      · exact hShifting t ht

theorem IdEntry.bits_length_le (e : IdEntry) : e.bits.length ≤ 32 := by
  cases e with
  | idCode v => exact (natBits_length 32 _).le
  | bypass => exact Nat.le_of_ble_eq_true rfl

theorem entries_length_le (l : List IdEntry) : ((l.map IdEntry.bits).flatten).length ≤ 32 * l.length := by
  induction l with
  | nil => exact Nat.le_refl _
  | cons e rest ih =>
    have hFirst := e.bits_length_le
    rw [List.map_cons, List.flatten_cons, List.length_append, List.length_cons]
    omega

/-- What DETECT_TAPS samples from a chain of reference TAPs: every TAP's entry, the sentinel, and more. -/
theorem discoveryScan_chain {s : State} {taps : List Tap} (h : Wired s taps) (hRoom : taps.length ≤ Config.maxTaps) :
    ∃ after, (discoveryScan s).1 = ((taps.map Tap.entry).map IdEntry.bits).flatten ++ natBits 32 Config.dummyId.toNat ++ after := by
  have hStart : Wired (s.withPort s.port.cleared) taps := ⟨h.tckLow, h.chain⟩
  have hReset := navigateTo_reset_chained hStart
  obtain ⟨taps', hWired, hCaptured⟩ := navigateTo_shift_chained hReset (navigateTo_cur _ _)
  obtain ⟨hBits, hShifting⟩ := captured_bits hCaptured
  obtain ⟨_, hIn⟩ := walkToScan_clocked (s.withPort s.port.cleared)
  obtain ⟨hPre, hPost⟩ := hIn.drives.pads .dr
  change _ = 0 at hPre hPost
  have hSamples : (discoveryScan s).1 = (chainBits taps' ++ dummyStream Config.dummyId Config.maxTaps).take (32 * (Config.maxTaps + 1)) := by
    have hShift := shiftClocks_wired hWired hShifting (decide ((.idle : TapState) ≠ Dir.dr.shiftState))
      (dummyStream Config.dummyId Config.maxTaps)
    show (((shiftClocks _ (paddedStream _ _ _) _).1.drop _).take _) = _
    rw [paddedStream_unpadded hPre hPost, hPre, List.drop_zero, hShift, dummyStream_length, List.take_take, Nat.min_self]
  have hLength := entries_length_le (taps.map Tap.entry)
  rw [List.length_map, ← hBits] at hLength
  rw [hSamples, dummyStream, List.replicate_succ, List.flatten_cons, ← List.append_assoc, List.take_append, List.take_of_length_le, hBits]
  · exact ⟨_, rfl⟩
  · rw [List.length_append, natBits_length]
    omega

/-- Settles O32: the stream the chain presents (`discoveryScan_chain`) decodes to its entries (`decodeChainComplete`). -/
theorem detectReferenceChain : Obligations.DetectReferenceChain := by
  intro s b taps hReady hLow hBench hChain hRoom hIds
  obtain ⟨after, hSamples⟩ := discoveryScan_chain ⟨hLow, by rw [hBench]; exact hChain⟩ hRoom
  have hDummy : Config.dummyId.getLsbD 0 = true := by simp [Config.dummyId]
  have hDecoded := decodeChainComplete Config.dummyId Config.maxTaps (taps.map Tap.entry) after hDummy (by rwa [List.length_map])
    fun v hv => by
      obtain ⟨tap, hTap, hEntry⟩ := List.mem_map.mp hv
      refine hIds tap hTap v ?_
      unfold Tap.entry at hEntry
      cases hId : tap.id with
      | none => rw [hId] at hEntry; cases hEntry
      | some w => rw [hId] at hEntry; cases hEntry; rfl
  rw [← hSamples] at hDecoded
  rcases exec_detectTaps_cases hReady with ⟨hNone, -⟩ | ⟨l, hSome, hExec⟩
  · rw [hDecoded] at hNone
    cases hNone
  · obtain rfl := Option.some.inj (hDecoded.symm.trans hSome)
    exact ⟨_, hExec, rfl, rfl, chainOf_entries 0 _⟩

end Sys2Proof.Machine
end

section
/-! PROOF. Set-up and identity (45_identity.md): PORT_INIT with its pin events, IDENTIFY by the first matching row, and SELECT_TARGET. -/

namespace Sys2Proof.Machine

open Sys2Proof

/-! ## PORT_INIT -/

/-- The events of a clock cycle that does not drive TDI. -/
theorem clock_undriven_trace (tms : Bool) (s : State) :
    (clock tms none s).2.trace = (undrivenCycle s.port.pinmap tms (clock tms none s).1).reverse ++ s.trace := rfl

/-- The events of TMS-high clocks that do not drive TDI. -/
theorem walk_ones_trace (n : Nat) (s : State) :
    ∃ bits : List Bool, bits.length = n ∧
      (walk (List.replicate n true) s).trace = (bits.flatMap (undrivenCycle s.port.pinmap true)).reverse ++ s.trace := by
  induction n generalizing s with
  | zero => exact ⟨[], rfl, rfl⟩
  | succ n ih =>
    obtain ⟨bits, hCount, hTrace⟩ := ih (clock true none s).2
    refine ⟨(clock true none s).1 :: bits, congrArg (· + 1) hCount, ?_⟩
    have hPinmap : (clock true none s).2.port.pinmap = s.port.pinmap := rfl
    rw [List.replicate_succ, walk, hTrace, hPinmap, clock_undriven_trace, List.flatMap_cons, List.reverse_append, List.append_assoc]

/-- The state from which PORT_INIT navigates to `Reset`: registers reset and pins parked (45_identity.md R139). -/
def parked (m : PinMap) (s : State) : State :=
  (idlePins ((resetRegisters s).withPort { (resetRegisters s).port with pinmap := m, init := true })).setCur .reset

theorem portInitEffect_eq (m : PinMap) (s : State) : portInitEffect m s = walk (List.replicate 5 true) (parked m s) := rfl

theorem parked_trace (m : PinMap) (s : State) : (parked m s).trace = (parkingWrites m).reverse ++ s.trace := rfl

theorem parked_port (m : PinMap) (s : State) : (parked m s).port = freshPort m := rfl

theorem exec_portInit_illegal {s : State} {m : PinMap} (hLive : s.fault = none) (hIllegal : ¬ pinMapLegal Config.gpioCount m = true) :
    exec (.portInit m) s = .next (raiseError .badPinAssignment s) := by
  show execPortInit m s = _
  rw [execPortInit, unlessFaulted_live hLive, if_neg hIllegal]

/-- Settles O33: the registers and pins before the navigation are written out (`parked`), and the navigation only clocks. -/
theorem portInit : Obligations.PortInit := by
  intro s m hLive
  refine ⟨fun hRange hDistinct => ?_, fun hIllegal => ?_⟩
  · rw [exec_portInit_legal hLive (pinMapLegal_iff.mpr ⟨hDistinct, hRange⟩), portInitEffect_eq]
    obtain ⟨bits, hCount, hTrace⟩ := walk_ones_trace 5 (parked m s)
    obtain ⟨_, hWalk⟩ := walk_clocked (List.replicate 5 true) (parked m s)
    have hPins := hWalk.tckLow rfl
    have hTms := hWalk.tms
    have hTdi := hWalk.tdi
    have hHwm := hWalk.hwm
    have hPulses := hWalk.count
    generalize walk (List.replicate 5 true) (parked m s) = u at hTrace hWalk hPins hTms hTdi hHwm hPulses
    have hDrives := hWalk.drives
    have hPort : u.port = freshPort m := hDrives.port_of_cur hWalk.cur
    have hReadback : u.readback = State.reset.readback := hDrives.readback
    have hKey : u.key.crcValid = false ∧ u.key.loaded = false := by rw [hDrives.key]; exact ⟨rfl, rfl⟩
    refine ⟨_, bits, rfl, hPort, ?_, hDrives.chain, hDrives.idList, hDrives.seqs, hDrives.pseq, hDrives.exec, hKey.1, hKey.2, fun k => ?_,
      rfl, hDrives.fault.trans hLive, rfl, hDrives.hostQueue, hCount, ?_, hPulses⟩
    · show u.pins = _
      rw [← show Pins.mk u.pins.tms u.pins.tck u.pins.tdi u.pins.hwmStart = u.pins from rfl, hTms, hPins, hTdi, hHwm]
      rfl
    · show u.readback.words[k.val] = _ ∧ u.readback.status[k.val] = _
      rw [hReadback]
      exact ⟨Vector.getElem_replicate _, Vector.getElem_replicate _⟩
    · rw [complete_trace, hTrace, parked_trace, parked_port, List.reverse_append, List.append_assoc]
      rfl
  · have hRefused : ¬ pinMapLegal Config.gpioCount m = true := fun hLegal => by
      obtain ⟨hDistinct, hRange⟩ := pinMapLegal_iff.mp hLegal
      rcases hIllegal with ⟨line, hLine, hHigh⟩ | hShared
      · exact absurd (hRange line hLine) (Nat.not_lt.mpr hHigh)
      · exact hShared hDistinct
    rw [exec_portInit_illegal hLive hRefused]
    rfl

/-! ## IDENTIFY -/

/-- The mask keeps the 28 bits that are compared (45_identity.md R140). -/
theorem masked_extract (id : BitVec 32) : (id &&& Config.idMask).extractLsb' 0 28 = id.extractLsb' 0 28 := by
  have hMask : ∀ i < 28, Config.idMask.getLsbD i = true := by decide
  refine BitVec.eq_of_getLsbD_eq fun i hi => ?_
  rw [BitVec.getLsbD_extractLsb', BitVec.getLsbD_extractLsb', BitVec.getLsbD_and, Nat.zero_add, hMask i hi, Bool.and_true]

theorem lookupDevice_eq_some {table : List DeviceRow} {id : BitVec 32} {r : DeviceRow} :
    lookupDevice table id = some r ↔
      ∃ k, table[k]? = some r ∧ r.id28 = id.extractLsb' 0 28 ∧
        ∀ (j : Nat) (r' : DeviceRow), j < k → table[j]? = some r' → r'.id28 ≠ id.extractLsb' 0 28 := by
  rw [lookupDevice, masked_extract, List.find?_eq_some_iff_getElem, decide_eq_true_eq]
  constructor
  · rintro ⟨hMatch, k, hk, rfl, hBefore⟩
    refine ⟨k, List.getElem?_eq_getElem hk, hMatch, fun j r' hj hRow => ?_⟩
    obtain ⟨hBound, rfl⟩ := List.getElem?_eq_some_iff.mp hRow
    simpa using hBefore j hj
  · rintro ⟨k, hRow, hMatch, hBefore⟩
    obtain ⟨hk, rfl⟩ := List.getElem?_eq_some_iff.mp hRow
    refine ⟨hMatch, k, hk, rfl, fun j hj => ?_⟩
    simpa using hBefore j _ hj (List.getElem?_eq_getElem (hj.trans hk))

theorem exec_identify_hit {s : State} {id : Nat} {r : DeviceRow} (hReady : s.ready) (hFits : id < 2 ^ 32)
    (hRow : lookupDevice Config.deviceTable (BitVec.ofNat 32 id) = some r) :
    exec (.identify id) s = .next (complete (.identity (some r)) (s.withPort (s.port.identify r))) := by
  have hExec : exec (.identify id) s = execIdentify id s := rfl
  rw [hExec, execIdentify, operation_ready hReady, withinWidths_fit (fitAll_one.mpr hFits)]
  simp only [hRow]

theorem exec_identify_miss {s : State} {id : Nat} (hReady : s.ready) (hFits : id < 2 ^ 32)
    (hRow : lookupDevice Config.deviceTable (BitVec.ofNat 32 id) = none) :
    exec (.identify id) s =
      .next ((raiseError .unknownDevice (s.withPort s.port.unidentify)).withReturned (.identity none)) := by
  have hExec : exec (.identify id) s = execIdentify id s := rfl
  rw [hExec, execIdentify, operation_ready hReady, withinWidths_fit (fitAll_one.mpr hFits)]
  simp only [hRow]

/-- Settles O34: the lookup is the first match (`lookupDevice_eq_some`), and IDENTIFY writes what it finds. -/
theorem identify : Obligations.Identify := by
  refine ⟨fun table id r => lookupDevice_eq_some, fun s id hReady hWide => ?_, fun s id hReady hFits => ?_⟩
  · have hExec : exec (.identify id) s = execIdentify id s := rfl
    rw [hExec, execIdentify, operation_ready hReady, withinWidths_wide]
    exact fun hFits => Nat.not_lt.mpr hWide (fitAll_one.mp hFits)
  · cases hRow : lookupDevice Config.deviceTable (BitVec.ofNat 32 id) with
    | none => exact ⟨_, exec_identify_miss hReady hFits hRow, rfl, rfl, ⟨rfl, rfl, rfl, rfl, rfl⟩, by cases s; rfl⟩
    | some r => exact ⟨_, exec_identify_hit hReady hFits hRow, rfl, rfl, ⟨rfl, rfl, rfl, rfl, rfl⟩, by cases s; rfl⟩

/-! ## SELECT_TARGET -/

theorem rowsOf_eq_some {table : List DeviceRow} {chain : List Node} {rows : List DeviceRow} :
    rowsOf table chain = some rows ↔ chain.map (rowOf table) = rows.map some := by
  induction chain generalizing rows with
  | nil => cases rows <;> simp [rowsOf]
  | cons n rest ih =>
    have hCons : rowsOf table (n :: rest) = (rowOf table n).bind fun r => (rowsOf table rest).map (r :: ·) := by
      rw [rowsOf]
      cases rowOf table n <;> cases rowsOf table rest <;> rfl
    rw [hCons, Option.bind_eq_some_iff]
    cases rows with
    | nil => simp
    | cons r rs =>
      rw [List.map_cons, List.map_cons, List.cons.injEq, ← ih]
      constructor
      · rintro ⟨r', hFirst, hRest⟩
        obtain ⟨rs', hRest, hBoth⟩ := Option.map_eq_some_iff.mp hRest
        cases hBoth
        exact ⟨hFirst, hRest⟩
      · rintro ⟨hFirst, hRest⟩
        exact ⟨r, hFirst, Option.map_eq_some_iff.mpr ⟨rs, hRest, rfl⟩⟩

theorem rowsOf_length {table : List DeviceRow} {chain : List Node} {rows : List DeviceRow} (h : rowsOf table chain = some rows) :
    rows.length = chain.length := by
  simpa using (congrArg List.length (rowsOf_eq_some.mp h)).symm

theorem markChain_length (t i : Nat) {ns : List Node} {rs : List DeviceRow} (h : rs.length = ns.length) :
    (markChain t i ns rs).length = ns.length := by
  induction ns generalizing i rs with
  | nil => cases rs <;> rfl
  | cons n ns ih =>
    cases rs with
    | nil => rfl
    | cons r rs => exact congrArg (· + 1) (ih (i + 1) (Nat.succ.inj h))

/-- The node at a place of `CHAIN` after SELECT_TARGET. -/
theorem markChain_getElem? (t i : Nat) {ns : List Node} {rs : List DeviceRow} {j : Nat} {x : Node} {row : DeviceRow}
    (hNode : ns[j]? = some x) (hRow : rs[j]? = some row) :
    (markChain t i ns rs)[j]? = some { x with irLength := row.irLength, active := decide (i + j = t) } := by
  induction ns generalizing i rs j with
  | nil => cases hNode
  | cons n ns ih =>
    cases rs with
    | nil => cases hRow
    | cons r rs =>
      cases j with
      | zero =>
        cases hNode
        cases hRow
        rfl
      | succ j =>
        rw [markChain, List.getElem?_cons_succ, ih (i + 1) hNode hRow, Nat.add_right_comm, Nat.add_assoc]

section

variable {s : State} {k : Nat} (hReady : s.ready) (hFits : k < 2 ^ 8)

include hReady hFits

theorem exec_selectTarget_absent (hNode : s.chain[k]? = none) : exec (.selectTarget k) s = .next (raiseError .noSuchTap s) := by
  have hExec : exec (.selectTarget k) s = execSelectTarget k s := rfl
  rw [hExec, execSelectTarget, operation_ready hReady, withinWidths_fit (fitAll_one.mpr hFits)]
  simp only [hNode]

theorem exec_selectTarget_unknown {n : Node} (hNode : s.chain[k]? = some n) (hRow : rowOf Config.deviceTable n = none) :
    exec (.selectTarget k) s = .next (raiseError .unknownDevice s) := by
  have hExec : exec (.selectTarget k) s = execSelectTarget k s := rfl
  rw [hExec, execSelectTarget, operation_ready hReady, withinWidths_fit (fitAll_one.mpr hFits)]
  simp only [hNode, hRow]

theorem exec_selectTarget_lengthless {n : Node} {r : DeviceRow} (hNode : s.chain[k]? = some n)
    (hRow : rowOf Config.deviceTable n = some r) (hRows : rowsOf Config.deviceTable s.chain = none) :
    exec (.selectTarget k) s = .next (raiseError .unknownIrLength s) := by
  have hExec : exec (.selectTarget k) s = execSelectTarget k s := rfl
  rw [hExec, execSelectTarget, operation_ready hReady, withinWidths_fit (fitAll_one.mpr hFits)]
  simp only [hNode, hRow, hRows]

theorem exec_selectTarget_found {n : Node} {r : DeviceRow} {rows : List DeviceRow} (hNode : s.chain[k]? = some n)
    (hRow : rowOf Config.deviceTable n = some r) (hRows : rowsOf Config.deviceTable s.chain = some rows) :
    exec (.selectTarget k) s = .next (selectEffect k r rows s) := by
  have hExec : exec (.selectTarget k) s = execSelectTarget k s := rfl
  rw [hExec, execSelectTarget, operation_ready hReady, withinWidths_fit (fitAll_one.mpr hFits)]
  simp only [hNode, hRow, hRows]

end

/-- The state SELECT_TARGET leaves when its pads fit. -/
def selected (k : Nat) (r : DeviceRow) (rows : List DeviceRow) (s : State) : State :=
  (s.withChain (markChain k 0 s.chain rows)).withPort
    { (s.port.setPads (irSum (rows.take k)) (irSum (rows.drop (k + 1))) k (rows.length - 1 - k)).identify r with
      target := BitVec.ofNat 8 k }

theorem selectEffect_eq {k : Nat} {rows : List DeviceRow} (hPlace : k < 2 ^ 8) (hRoom : rows.length ≤ 256) (r : DeviceRow) (s : State) :
    selectEffect k r rows s = if irSum (rows.take k) ≤ 0xFFFF ∧ irSum (rows.drop (k + 1)) ≤ 0xFFFF
      then complete .nothing (selected k r rows s) else takeFault .valueTooWide s := by
  have hFit : fitAll [(irSum (rows.take k), 16), (irSum (rows.drop (k + 1)), 16), (k, 16), (rows.length - 1 - k, 16)] = true ↔
      irSum (rows.take k) ≤ 0xFFFF ∧ irSum (rows.drop (k + 1)) ≤ 0xFFFF := by
    simp only [fitAll_cons, show fitAll [] = true from rfl, and_true]
    omega
  rw [selectEffect]
  simp only [hFit]
  rfl

theorem unreport_selected (k : Nat) (r : DeviceRow) (rows : List DeviceRow) (s : State) :
    unreport s (((complete .nothing (selected k r rows s)).withPort s.port).withChain s.chain) = s := by
  cases s
  rfl

/-- The pads of the target, when they fit (45_identity.md R143). -/
theorem selected_pads {k : Nat} {rows : List DeviceRow} {s : State} (hPlace : k < 2 ^ 8) (hRoom : s.chain.length ≤ 256)
    (hRows : rows.length = s.chain.length) (hPre : irSum (rows.take k) ≤ 0xFFFF) (hPost : irSum (rows.drop (k + 1)) ≤ 0xFFFF)
    (r : DeviceRow) :
    (selected k r rows s).port.target.toNat = k ∧ (selected k r rows s).port.irPre.toNat = irSum (rows.take k) ∧
      (selected k r rows s).port.irPost.toNat = irSum (rows.drop (k + 1)) ∧ (selected k r rows s).port.drPre.toNat = k ∧
      (selected k r rows s).port.drPost.toNat = s.chain.length - 1 - k := by
  rw [← hRows]
  refine ⟨toNat_ofNat_lt hPlace, toNat_ofNat_lt ?_, toNat_ofNat_lt ?_, toNat_ofNat_lt ?_, toNat_ofNat_lt ?_⟩ <;> omega

/-- Settles O36: the checks in their order, then the registers that `selected` writes. -/
theorem selectTarget : Obligations.SelectTarget := by
  refine ⟨fun table chain rows => rowsOf_eq_some, fun s k hReady hWide => ?_, fun s k hReady hFits hRoom => ?_⟩
  · have hExec : exec (.selectTarget k) s = execSelectTarget k s := rfl
    rw [hExec, execSelectTarget, operation_ready hReady, withinWidths_wide]
    exact fun hFits => Nat.not_lt.mpr hWide (fitAll_one.mp hFits)
  · cases hNode : s.chain[k]? with
    | none => exact ⟨_, exec_selectTarget_absent hReady hFits hNode, rfl⟩
    | some n =>
      dsimp only
      cases hRow : rowOf Config.deviceTable n with
      | none => exact ⟨_, exec_selectTarget_unknown hReady hFits hNode hRow, rfl⟩
      | some r =>
        cases hRows : rowsOf Config.deviceTable s.chain with
        | none => exact ⟨_, exec_selectTarget_lengthless hReady hFits hNode hRow hRows, rfl⟩
        | some rows =>
          have hLength := rowsOf_length hRows
          have hExec := exec_selectTarget_found hReady hFits hNode hRow hRows
          rw [selectEffect_eq hFits (hLength.trans_le hRoom)] at hExec
          dsimp only
          split
          next hPads =>
            rw [if_pos hPads] at hExec
            obtain ⟨hTarget, hIrPre, hIrPost, hDrPre, hDrPost⟩ := selected_pads hFits hRoom hLength hPads.1 hPads.2 r
            refine ⟨_, hExec, rfl, rfl, rfl, rfl, hTarget, rfl, rfl, rfl, hIrPre, hIrPost, hDrPre, hDrPost, markChain_length k 0 hLength,
              fun j x row hx hr => ?_, rfl, rfl, unreport_selected k r rows s⟩
            have hMarked := markChain_getElem? k 0 hx hr
            rw [Nat.zero_add] at hMarked
            exact hMarked
          next hWide =>
            rw [if_neg hWide] at hExec
            exact ⟨_, hExec, rfl⟩

end Sys2Proof.Machine
end

section
/-! PROOF. What every instruction may change (10_state.md): one account per instruction, naming the registers it writes, from which the
statements about the whole machine follow (43_executor.md R125, 46_efuse.md R155). -/

namespace Sys2Proof.Machine

open Sys2Proof

/-! ## The account -/

/-- The groups of registers an instruction may write: the pads; the identity registers; `CHAIN` with `PORT.TARGET`; `IDLIST`; the key; the
read-back key; `SEQS`; `PSEQ`; a run left in progress; `FAULT` with `BadCommand`; the queue of host records. -/
inductive Reg where
  | pads | identity | chain | idList | key | readback | seqs | pseq | run | fault | queue

/-- From `s` to `t` only the registers `w` change beside pins, `PORT.CUR`, `RESULT` and `FAULT`, and `HWM_START` is driven to `levels`. -/
structure Acts (w : List Reg) (levels : List Bool) (s t : State) : Prop where
  init : t.port.init = s.port.init
  pinmap : t.port.pinmap = s.port.pinmap
  grows : traceGrows s t
  clocks : ∃ bits, drove .tms s t bits ∧ pulsed s t bits.length ∧ t.port.cur = bits.foldl TapState.next s.port.cur
  starts : drove .hwmStart s t levels
  latch : t.pins.hwmStart = lastLevel s.pins.hwmStart levels
  tckLow : s.pins.tck = false → t.pins.tck = false
  result : resultLegal s.result → resultLegal t.result
  pads : .pads ∉ w → t.port.irPre = s.port.irPre ∧ t.port.irPost = s.port.irPost ∧ t.port.drPre = s.port.drPre ∧
    t.port.drPost = s.port.drPost
  identity : .identity ∉ w → t.port.family = s.port.family ∧ t.port.irLen = s.port.irLen ∧ t.port.segments = s.port.segments ∧
    t.port.masterSeg = s.port.masterSeg
  chain : .chain ∉ w → t.port.target = s.port.target ∧ t.chain = s.chain
  idList : .idList ∉ w → t.idList = s.idList
  key : .key ∉ w → t.key = s.key
  readback : .readback ∉ w → t.readback = s.readback
  seqs : .seqs ∉ w → t.seqs = s.seqs
  pseq : .pseq ∉ w → t.pseq = s.pseq
  run : .run ∉ w → t.exec.seq = s.exec.seq ∨ t.exec.seq = none
  fault : .fault ∉ w → t.fault = some .badCommand → s.fault = some .badCommand
  queue : .queue ∉ w → t.hostQueue = s.hostQueue

section

variable {w : List Reg} {levels : List Bool} {s t u : State}

theorem Acts.refl (w : List Reg) (s : State) : Acts w [] s s where
  init := rfl
  pinmap := rfl
  grows := ⟨[], rfl⟩
  clocks := ⟨[], rfl, rfl, rfl⟩
  starts := rfl
  latch := rfl
  tckLow := id
  result := id
  pads := fun _ => ⟨rfl, rfl, rfl, rfl⟩
  identity := fun _ => ⟨rfl, rfl, rfl, rfl⟩
  chain := fun _ => ⟨rfl, rfl⟩
  idList := fun _ => rfl
  key := fun _ => rfl
  readback := fun _ => rfl
  seqs := fun _ => rfl
  pseq := fun _ => rfl
  run := fun _ => .inl rfl
  fault := fun _ => id
  queue := fun _ => rfl

theorem traceGrows_trans (a : traceGrows s t) (b : traceGrows t u) : traceGrows s u := by
  obtain ⟨x, hx⟩ := a
  obtain ⟨y, hy⟩ := b
  exact ⟨y ++ x, by rw [hy, hx, List.append_assoc]⟩

theorem pulsed_trans {m n : Nat} (a : pulsed s t m) (b : pulsed t u n) : pulsed s u (m + n) := by
  unfold pulsed at *
  omega

theorem Acts.trans {levels' : List Bool} (a : Acts w levels s t) (b : Acts w levels' t u) : Acts w (levels ++ levels') s u where
  init := b.init.trans a.init
  pinmap := b.pinmap.trans a.pinmap
  grows := traceGrows_trans a.grows b.grows
  clocks := by
    obtain ⟨x, hTms, hCount, hCur⟩ := a.clocks
    obtain ⟨y, hTms', hCount', hCur'⟩ := b.clocks
    exact ⟨x ++ y, drove_trans hTms hTms', by rw [List.length_append]; exact pulsed_trans hCount hCount',
      by rw [hCur', hCur, List.foldl_append]⟩
  starts := drove_trans a.starts b.starts
  latch := by rw [b.latch, a.latch, lastLevel_append]
  tckLow := fun h => b.tckLow (a.tckLow h)
  result := fun h => b.result (a.result h)
  pads := fun h => by
    obtain ⟨h1, h2, h3, h4⟩ := a.pads h
    obtain ⟨g1, g2, g3, g4⟩ := b.pads h
    exact ⟨g1.trans h1, g2.trans h2, g3.trans h3, g4.trans h4⟩
  identity := fun h => by
    obtain ⟨h1, h2, h3, h4⟩ := a.identity h
    obtain ⟨g1, g2, g3, g4⟩ := b.identity h
    exact ⟨g1.trans h1, g2.trans h2, g3.trans h3, g4.trans h4⟩
  chain := fun h => ⟨(b.chain h).1.trans (a.chain h).1, (b.chain h).2.trans (a.chain h).2⟩
  idList := fun h => (b.idList h).trans (a.idList h)
  key := fun h => (b.key h).trans (a.key h)
  readback := fun h => (b.readback h).trans (a.readback h)
  seqs := fun h => (b.seqs h).trans (a.seqs h)
  pseq := fun h => (b.pseq h).trans (a.pseq h)
  run := fun h => (b.run h).elim (fun hSame => hSame ▸ a.run h) .inr
  fault := fun h hBad => a.fault h (b.fault h hBad)
  queue := fun h => (b.queue h).trans (a.queue h)

/-! ## The outcomes of an operation -/

/-- An `info` names one of the eight key words (60_exceptions.md R172). -/
def ErrorCode.legal (e : ErrorCode) : Prop := (∀ k, e = .notReady k → k < 8) ∧ (∀ k, e = .dataMismatch k → k < 8)

theorem stuck_acts (w : List Reg) (s : State) : Acts w [] s (stuck s) := { Acts.refl w s with }

theorem complete_acts (w : List Reg) (v : Returned) (s : State) : Acts w [] s (complete v s) :=
  { Acts.refl w s with result := fun _ => .inl rfl }

theorem raiseError_acts (w : List Reg) {e : ErrorCode} (he : e.legal) (s : State) : Acts w [] s (raiseError e s) :=
  { Acts.refl w s with result := fun _ => .inr ⟨e, rfl, he⟩ }

theorem takeFault_acts (w : List Reg) {r : FaultReason} (hr : r ≠ .badCommand) (s : State) : Acts w [] s (takeFault r s) :=
  { Acts.refl w s with fault := fun _ hBad => absurd (Option.some.inj hBad) hr }

theorem badCommand_acts (hw : .fault ∈ w) (s : State) : Acts w [] s (takeFault .badCommand s) :=
  { Acts.refl w s with fault := fun h => absurd hw h }

/-! ## Writes of one group -/

theorem withSeqs_acts (hw : .seqs ∈ w) (s : State) (v : List (Nat × Seq)) : Acts w [] s (s.withSeqs v) :=
  { Acts.refl w s with seqs := fun h => absurd hw h }

theorem setSeq_acts (hw : .seqs ∈ w) (s : State) (q : Nat) (v : Seq) : Acts w [] s (s.setSeq q v) := withSeqs_acts hw s _

theorem withPseq_acts (hw : .pseq ∈ w) (s : State) (v : Seq) : Acts w [] s (s.withPseq v) :=
  { Acts.refl w s with pseq := fun h => absurd hw h }

theorem withKey_acts (hw : .key ∈ w) (s : State) (v : KeyRegs) : Acts w [] s (s.withKey v) :=
  { Acts.refl w s with key := fun h => absurd hw h }

theorem withReadback_acts (hw : .readback ∈ w) (s : State) (v : Readback) : Acts w [] s (s.withReadback v) :=
  { Acts.refl w s with readback := fun h => absurd hw h }

theorem withChain_acts (hw : .chain ∈ w) (s : State) (v : List Node) : Acts w [] s (s.withChain v) :=
  { Acts.refl w s with chain := fun h => absurd hw h }

theorem withIdList_acts (hw : .idList ∈ w) (s : State) (v : List IdEntry) : Acts w [] s (s.withIdList v) :=
  { Acts.refl w s with idList := fun h => absurd hw h }

theorem withHostQueue_acts (hw : .queue ∈ w) (s : State) (v : List (List Byte)) : Acts w [] s (s.withHostQueue v) :=
  { Acts.refl w s with queue := fun h => absurd hw h }

theorem withExec_acts (hw : .run ∈ w) (s : State) (v : Exec) : Acts w [] s (s.withExec v) :=
  { Acts.refl w s with run := fun h => absurd hw h }

theorem endRun_exec_acts (w : List Reg) {v : Exec} (hv : v.seq = s.exec.seq ∨ v.seq = none) : Acts w [] s (s.withExec v) :=
  { Acts.refl w s with run := fun _ => hv }

theorem setPads_acts (hw : .pads ∈ w) (s : State) (a b c d : Nat) : Acts w [] s (s.withPort (s.port.setPads a b c d)) :=
  { Acts.refl w s with pads := fun h => absurd hw h }

theorem identify_acts (hw : .identity ∈ w) (s : State) (r : DeviceRow) : Acts w [] s (s.withPort (s.port.identify r)) :=
  { Acts.refl w s with identity := fun h => absurd hw h }

theorem unidentify_acts (hw : .identity ∈ w) (s : State) : Acts w [] s (s.withPort s.port.unidentify) :=
  { Acts.refl w s with identity := fun h => absurd hw h }

theorem cleared_acts (hPads : .pads ∈ w) (hChain : .chain ∈ w) (s : State) : Acts w [] s (s.withPort s.port.cleared) :=
  { Acts.refl w s with pads := fun h => absurd hPads h, chain := fun h => absurd hChain h }

theorem selected_acts (hPads : .pads ∈ w) (hIdentity : .identity ∈ w) (hChain : .chain ∈ w) (k : Nat) (r : DeviceRow)
    (rows : List DeviceRow) (s : State) : Acts w [] s (selected k r rows s) :=
  { Acts.refl w s with
    pads := fun h => absurd hPads h
    identity := fun h => absurd hIdentity h
    chain := fun h => absurd hChain h }

/-! ## Driving -/

/-- What driving changes, given its clocks and what it does to `HWM_START`. -/
theorem Drives.acts (h : Drives s t) (w : List Reg)
    (hClocks : ∃ bits, drove .tms s t bits ∧ pulsed s t bits.length ∧ t.port.cur = bits.foldl TapState.next s.port.cur)
    (hStarts : drove .hwmStart s t levels) (hLatch : t.pins.hwmStart = lastLevel s.pins.hwmStart levels)
    (hTck : s.pins.tck = false → t.pins.tck = false) : Acts w levels s t := by
  obtain ⟨hInit, hIrPre, hIrPost, hDrPre, hDrPost, hIrLen, hSegments, hMaster, hFamily, hTarget, hPinmap⟩ := h.port_fields
  exact {
    init := hInit, pinmap := hPinmap, grows := h.grows, clocks := hClocks, starts := hStarts, latch := hLatch, tckLow := hTck,
    result := fun hLegal => h.result ▸ hLegal, pads := fun _ => ⟨hIrPre, hIrPost, hDrPre, hDrPost⟩,
    identity := fun _ => ⟨hFamily, hIrLen, hSegments, hMaster⟩, chain := fun _ => ⟨hTarget, h.chain⟩, idList := fun _ => h.idList,
    key := fun _ => h.key, readback := fun _ => h.readback, seqs := fun _ => h.seqs, pseq := fun _ => h.pseq,
    run := fun _ => .inl (congrArg Exec.seq h.exec), fault := fun _ hBad => h.fault ▸ hBad, queue := fun _ => h.hostQueue }

theorem Clocked.acts {tms tdi tdo : List Bool} (h : Clocked s t tms tdi tdo) (w : List Reg) : Acts w [] s t :=
  h.drives.acts w ⟨tms, h.droveTms, h.count, h.cur⟩ h.droveHwm h.hwm h.tckLow

theorem Handled.acts (h : Handled s t levels) (w : List Reg) : Acts w levels s t :=
  h.drives.acts w ⟨[], h.droveTms, h.count, h.cur⟩ h.droveHwm (by rw [h.pins]) fun hLow => by rw [h.pins]; exact hLow

theorem Waited.acts (h : Waited s t) (w : List Reg) : Acts w [] s t := h.handled.acts w

/-- Clocking with bytes stored in buffers. -/
theorem Clocked.acts_rebuffered {tms tdi tdo : List Bool} (h : Clocked s (rebuffer s t) tms tdi tdo) (hSeqs : .seqs ∈ w ∨ t.seqs = s.seqs)
    (hPseq : .pseq ∈ w ∨ t.pseq = s.pseq) (hRun : t.exec.seq = s.exec.seq) : Acts w [] s t :=
  { h.acts w with
    seqs := fun hw => hSeqs.resolve_left hw
    pseq := fun hw => hPseq.resolve_left hw
    run := fun _ => .inl hRun }

end

/-! ## What the wrappers answer -/

/-- A property of answers that every way to stop has: stuck, a fault other than `BadCommand`, and an error. -/
structure Stops (P : State → Prop) (s : State) : Prop where
  stuck : P (stuck s)
  fault : ∀ r, r ≠ .badCommand → P (takeFault r s)
  error : ∀ e : ErrorCode, e.legal → P (raiseError e s)

theorem Acts.stops {w : List Reg} {levels : List Bool} {s t : State} (h : Acts w levels s t) : Stops (Acts w levels s) t where
  stuck := List.append_nil levels ▸ h.trans (stuck_acts w t)
  fault := fun _ hr => List.append_nil levels ▸ h.trans (takeFault_acts w hr t)
  error := fun _ he => List.append_nil levels ▸ h.trans (raiseError_acts w he t)

section

variable {P : State → Prop} {s t : State}

theorem unlessFaulted_answer {body : State → State} (hStop : Stops P s) (hBody : s.fault = none → P (body s))
    (h : unlessFaulted body s = .next t) : P t := by
  cases hFault : s.fault with
  | none =>
    rw [unlessFaulted_live hFault] at h
    cases h
    exact hBody hFault
  | some r =>
    rw [unlessFaulted_faulted hFault] at h
    cases h
    exact hStop.stuck

theorem operation_answer {body : State → State} (hStop : Stops P s) (hBody : s.ready → P (body s)) (h : operation body s = .next t) :
    P t := by
  refine unlessFaulted_answer hStop (fun hLive => ?_) h
  cases hInit : s.port.init with
  | true => exact hBody ⟨hInit, hLive⟩
  | false => exact hStop.fault _ (by decide)

theorem withinWidths_answer {ws : List (Nat × Nat)} {body : State → State} (hStop : Stops P s) (hBody : fitAll ws = true → P (body s)) :
    P (withinWidths ws body s) := by
  rcases withinWidths_spec ws body s with ⟨hFit, h⟩ | ⟨-, h⟩ <;> rw [h]
  · exact hBody hFit
  · exact hStop.fault _ (by decide)

theorem withSeq_answer {q : Nat} {body : Seq → State → State} (hStop : Stops P s) (hBody : ∀ v, s.seqAt q = some v → P (body v s)) :
    P (withSeq q body s) := by
  rcases withSeq_spec q body s with ⟨-, h⟩ | ⟨v, hv, h⟩ <;> rw [h]
  · exact hStop.fault _ (by decide)
  · exact hBody v hv

theorem withOpenSeq_answer {q : Nat} {body : Seq → State → State} (hStop : Stops P s)
    (hBody : ∀ v, s.seqAt q = some v → v.consumed = false → P (body v s)) : P (withOpenSeq q body s) := by
  rcases withOpenSeq_spec q body s with ⟨-, h⟩ | ⟨v, hv, ⟨-, h⟩ | ⟨hOpen, h⟩⟩ <;> rw [h]
  · exact hStop.fault _ (by decide)
  · exact hStop.fault _ (by decide)
  · exact hBody v hv hOpen

theorem withTarget_answer {body : Family → Nat → State → State} (hStop : Stops P s)
    (hBody : ∀ f, s.port.irLen ≠ 0#8 → P (body f s.port.irLen.toNat s)) : P (withTarget body s) := by
  rcases withTarget_spec body s with ⟨f, -, hLength, -, h⟩ | ⟨-, h⟩ | ⟨-, -, -, h⟩ <;> rw [h]
  · exact hBody f hLength
  · exact hStop.error _ ⟨nofun, nofun⟩
  · exact hStop.error _ ⟨nofun, nofun⟩

theorem withKey_answer {body : State → State} (hStop : Stops P s) (hBody : P (body s)) : P (withKey body s) := by
  rcases withKey_spec body s with ⟨-, h⟩ | ⟨-, h⟩ <;> rw [h]
  · exact hBody
  · exact hStop.fault _ (by decide)

theorem protocolOperation_answer {body : Family → Nat → State → State} (hStop : Stops P s) (hEmptied : Stops P (s.withPseq Seq.empty))
    (hBody : ∀ f, s.ready → s.port.irLen ≠ 0#8 → P (body f s.port.irLen.toNat (s.withPseq Seq.empty)))
    (h : protocolOperation body s = .next t) : P t :=
  operation_answer hStop (fun hReady => withTarget_answer (s := s.withPseq Seq.empty) hEmptied fun f hLength => hBody f hReady hLength) h

theorem commandBody_answer {legal : Seq → Bool} {effect : State → State} (hStop : Stops P s) (hBad : P (takeFault .badCommand s))
    (hEffect : s.port.init = true → legal s.curSeq = true → P (effect s)) : P (commandBody legal effect s) := by
  unfold commandBody
  split
  · exact hStop.fault _ (by decide)
  next hInit =>
    split
    · exact hBad
    next hLegal => exact hEffect (Bool.of_not_eq_false hInit) (Bool.of_not_eq_false hLegal)

theorem afterFixed_answer {v : Seq} {next : State → State} (hFault : (runFixed v s).fault ≠ none → P (runFixed v s))
    (hNext : (runFixed v s).fault = none → P (next (runFixed v s))) : P (afterFixed v next s) := by
  unfold afterFixed
  dsimp only
  split
  next hSome => exact hFault (Option.isSome_iff_ne_none.mp hSome)
  next hNone => exact hNext (Option.not_isSome_iff_eq_none.mp hNone)

end

/-! ## Commands and runs -/

section

variable {s t u : State} {tms tdi samples : List Bool}

theorem Ran.acts (h : Ran s u tms tdi samples) {w : List Reg} (hSeqs : .seqs ∈ w ∨ s.exec.seq = none)
    (hPseq : .pseq ∈ w ∨ s.exec.seq ≠ none) : Acts w [] s u :=
  h.clocked.acts_rebuffered (hSeqs.imp_right h.stores.seqs) (hPseq.imp_right h.stores.pseq) h.stores.seq

/-- Everything the words of a run can do. -/
theorem runWords_acts {words : List Word64} (hReady : s.ready) {w : List Reg} (hSeqs : .seqs ∈ w ∨ s.exec.seq = none)
    (hPseq : .pseq ∈ w ∨ s.exec.seq ≠ none) (hFault : .fault ∈ w) : Acts w [] s (runWords words s) := by
  obtain ⟨u, tms, tdi, samples, hRan, -, -, hAnswer | hAnswer⟩ := runWords_cases words hReady <;> rw [hAnswer]
  · exact hRan.acts hSeqs hPseq
  · exact (hRan.acts hSeqs hPseq).trans (badCommand_acts hFault u)

theorem runFixed_acts (hReady : s.ready) (v : Seq) {w : List Reg} (hPseq : .pseq ∈ w) (hFault : .fault ∈ w) :
    Acts w [] s (runFixed v s) :=
  ((withPseq_acts hPseq s v).trans (endRun_exec_acts w (.inr rfl))).trans
    (runWords_acts (s := (s.withPseq v).withExec { s.exec with seq := none, pc := 0 }) hReady (.inr rfl) (.inl hPseq) hFault)

theorem beginRun_acts {w : List Reg} (hSeqs : .seqs ∈ w) (hRun : .run ∈ w) (q : Nat) (v : Seq) (s : State) :
    Acts w [] s (beginRun q v s) :=
  (setSeq_acts hSeqs s q _).trans (withExec_acts hRun _ _)

end

end Sys2Proof.Machine
end

section
/-! PROOF. The account of every instruction: which registers it writes, and how its clocks move `PORT.CUR` (10_state.md sections 2 to 8);
settles what only some instructions write or start. -/

namespace Sys2Proof.Machine

open Sys2Proof

/-- The registers an instruction may write, beside pins, `PORT.CUR`, `RESULT` and `FAULT`. -/
def writes : Instr → List Reg
  | .setState _ _ | .shiftDr _ _ _ _ | .shiftIr _ _ _ _ => [.seqs, .pseq, .fault]
  | .portInit _ => [.pads, .identity, .chain, .idList, .key, .readback, .seqs, .pseq, .run]
  | .navigate _ | .pulse _ | .shift _ _ _ _ _ | .bufRead _ _ _ _ | .keyReadback => []
  | .seqCreate _ | .seqAddState _ _ _ | .seqAddShift _ _ _ _ _ _ | .seqClear _ | .seqDelete _ | .bufWrite _ _ _ _ => [.seqs]
  | .seqRun _ => [.seqs, .run, .fault]
  | .detectTaps => [.pads, .chain, .idList]
  | .identify _ => [.identity]
  | .setPads _ _ _ _ => [.pads]
  | .selectTarget _ => [.pads, .identity, .chain]
  | .jprogram | .efuseProgramRow _ _ _ _ | .efuseReadRow _ _ _ | .bbramProgram => [.pseq, .fault]
  | .keyLoad _ _ _ => [.key]
  | .bbramVerify => [.pseq, .readback, .fault]

/-! ## Commands -/

section

variable {s t : State} {w : List Reg}

theorem setStateBody_acts (hFault : .fault ∈ w) (st : TapState) (idle : Nat) (s : State) : Acts w [] s (setStateBody st idle s) := by
  refine commandBody_answer (Acts.refl w s).stops (badCommand_acts hFault s) fun _ hLegal => ?_
  obtain ⟨⟨tdo, hClocked⟩, -⟩ := setStateEffect_clocked (stable_of_legal hLegal) s
  exact hClocked.acts w

theorem shiftBody_acts (hSeqs : .seqs ∈ w) (hPseq : .pseq ∈ w) (hFault : .fault ∈ w) (dir : Dir) (n : Nat) (tdi : TdiSource)
    (tdo : Option Nat) (exit : TapState) (s : State) : Acts w [] s (shiftBody dir n tdi tdo exit s) := by
  refine commandBody_answer (Acts.refl w s).stops (badCommand_acts hFault s) fun _ hLegal => ?_
  obtain ⟨samples, hClocked, -, -, -, hExec⟩ := shiftEffect_clocked (pos_of_shiftLegal hLegal) tdi tdo exit s (dir := dir)
  exact hClocked.acts_rebuffered (.inl hSeqs) (.inl hPseq) (by rw [hExec])

/-! ## Pins, sequences and identity -/

theorem exec_pulse_acts {count : Nat} (h : exec (.pulse count) s = .next t) : Acts w [] s t := by
  refine operation_answer (Acts.refl w s).stops (fun _ => withinWidths_answer (Acts.refl w s).stops fun _ => ?_) h
  split
  · exact complete_acts w _ s
  · split
    · exact (Acts.refl w s).stops.fault _ (by decide)
    · obtain ⟨tdo, hTicks⟩ := ticks_clocked count s
      exact (hTicks.acts w).trans (complete_acts w _ _)

theorem exec_navigate_acts {b : TapState} (h : exec (.navigate b) s = .next t) : Acts w [] s t := by
  have hExec : execNavigate b s = .next t := h
  refine operation_answer (Acts.refl w s).stops (fun _ => ?_) hExec
  obtain ⟨tdo, hWalk⟩ := navigateTo_clocked b s
  exact (hWalk.acts w).trans (complete_acts w _ _)

theorem exec_shift_acts {dir : Dir} {n : Nat} {tdi : TdiMode} {capture : Bool} {exit : TapState}
    (h : exec (.shift dir n tdi capture exit) s = .next t) : Acts w [] s t := by
  have hStop := (Acts.refl w s).stops
  have hExec : execShift dir n tdi capture exit s = .next t := h
  refine operation_answer hStop (fun _ => ?_) hExec
  split
  · exact hStop.fault _ (by decide)
  split
  · exact hStop.error _ ⟨nofun, nofun⟩
  split
  · exact hStop.fault _ (by decide)
  split
  · exact hStop.fault _ (by decide)
  obtain ⟨tdo, hShift, -⟩ := shiftEngine_clocked dir (tdi.bits n) exit s
  exact (hShift.acts w).trans (complete_acts w _ _)

theorem complete_setSeq_acts (hw : .seqs ∈ w) (r : Returned) (s : State) (q : Nat) (v : Seq) : Acts w [] s (complete r (s.setSeq q v)) :=
  (setSeq_acts hw s q v).trans (complete_acts w r _)

theorem exec_seqCreate_acts {node : Nat} (hw : .seqs ∈ w) (h : exec (.seqCreate node) s = .next t) : Acts w [] s t := by
  refine operation_answer (Acts.refl w s).stops (fun _ => withinWidths_answer (Acts.refl w s).stops fun _ => ?_) h
  dsimp only
  split
  · exact complete_setSeq_acts hw _ s _ _
  · exact (Acts.refl w s).stops.fault _ (by decide)

theorem exec_seqAddState_acts {q idle : Nat} {st : TapState} (hw : .seqs ∈ w) (h : exec (.seqAddState q st idle) s = .next t) :
    Acts w [] s t := by
  have hStop := (Acts.refl w s).stops
  refine operation_answer hStop (fun _ => withOpenSeq_answer hStop fun v _ _ => withinWidths_answer hStop fun _ => ?_) h
  split
  · exact hStop.error _ ⟨nofun, nofun⟩
  · exact complete_setSeq_acts hw _ s _ _

theorem exec_seqAddShift_acts {q flags n : Nat} {wi wo : Bool} {exit : TapState} (hw : .seqs ∈ w)
    (h : exec (.seqAddShift q flags n wi wo exit) s = .next t) : Acts w [] s t := by
  have hStop := (Acts.refl w s).stops
  refine operation_answer hStop (fun _ => withOpenSeq_answer hStop fun v _ _ => withinWidths_answer hStop fun _ => ?_) h
  split
  · exact hStop.fault _ (by decide)
  split
  · exact hStop.error _ ⟨nofun, nofun⟩
  split
  · exact hStop.fault _ (by decide)
  split
  · exact hStop.fault _ (by decide)
  exact complete_setSeq_acts hw _ s _ _

theorem exec_seqClear_acts {q : Nat} (hw : .seqs ∈ w) (h : exec (.seqClear q) s = .next t) : Acts w [] s t := by
  have hStop := (Acts.refl w s).stops
  exact operation_answer hStop (fun _ => withSeq_answer hStop fun v _ => complete_setSeq_acts hw _ s _ _) h

theorem exec_seqDelete_acts {q : Nat} (hw : .seqs ∈ w) (h : exec (.seqDelete q) s = .next t) : Acts w [] s t := by
  have hStop := (Acts.refl w s).stops
  exact operation_answer hStop
    (fun _ => withSeq_answer hStop fun v _ => (withSeqs_acts hw s (seqErase s.seqs q)).trans (complete_acts w .nothing _)) h

theorem exec_bufWrite_acts {q k o : Nat} {bytes : List Byte} (hw : .seqs ∈ w) (h : exec (.bufWrite q k o bytes) s = .next t) :
    Acts w [] s t := by
  have hStop := (Acts.refl w s).stops
  refine operation_answer hStop (fun _ => withSeq_answer hStop fun v _ => withinWidths_answer hStop fun _ => ?_) h
  cases memWrite v.pool k o bytes with
  | none => exact hStop.fault _ (by decide)
  | some pool => exact complete_setSeq_acts hw _ s _ _

theorem exec_bufRead_acts {q k o n : Nat} (h : exec (.bufRead q k o n) s = .next t) : Acts w [] s t := by
  have hStop := (Acts.refl w s).stops
  refine operation_answer hStop (fun _ => withSeq_answer hStop fun v _ => withinWidths_answer hStop fun _ => ?_) h
  cases memRead v.pool k o n with
  | none => exact hStop.fault _ (by decide)
  | some bytes => exact complete_acts w _ s

theorem exec_seqRun_acts {q : Nat} (hSeqs : .seqs ∈ w) (hRun : .run ∈ w) (hFault : .fault ∈ w) (h : exec (.seqRun q) s = .next t) :
    Acts w [] s t := by
  have hStop := (Acts.refl w s).stops
  refine operation_answer hStop (fun hReady => withOpenSeq_answer hStop fun v _ _ => ?_) h
  have hWords : Acts w [] s (runWords v.cmds (beginRun q v s)) :=
    (beginRun_acts hSeqs hRun q v s).trans (runWords_acts (s := beginRun q v s) hReady (.inl hSeqs) (.inr nofun) hFault)
  dsimp only
  split
  · exact hWords
  · exact (hWords.trans (withExec_acts hRun _ _)).trans (complete_acts w _ _)

theorem exec_detectTaps_acts (hPads : .pads ∈ w) (hChain : .chain ∈ w) (hList : .idList ∈ w) (h : exec .detectTaps s = .next t) :
    Acts w [] s t := by
  have hStop := (Acts.refl w s).stops
  obtain ⟨walkIn, walkOut, -, -, hScan⟩ := discoveryScan_clocked s
  have hScanned : Acts w [] s (discoveryScan s).2 := (cleared_acts hPads hChain s).trans (hScan.acts w)
  have hListed : ∀ l c, Acts w [] s (((discoveryScan s).2.withIdList l).withChain c) := fun l c =>
    (hScanned.trans (withIdList_acts hList _ l)).trans (withChain_acts hChain _ c)
  have hExec : execDetectTaps s = .next t := h
  refine operation_answer hStop (fun hReady => ?_) hExec
  dsimp only
  cases decodeChain Config.dummyId Config.maxTaps (discoveryScan s).1 with
  | none => exact (hListed [] []).stops.error _ ⟨nofun, nofun⟩
  | some l => exact (hListed l (chainOf 0 l)).trans (complete_acts w _ _)

theorem withReturned_acts (w : List Reg) (v : Returned) (s : State) : Acts w [] s (s.withReturned v) := { Acts.refl w s with }

theorem exec_identify_acts {id : Nat} (hw : .identity ∈ w) (h : exec (.identify id) s = .next t) : Acts w [] s t := by
  have hStop := (Acts.refl w s).stops
  refine operation_answer hStop (fun _ => withinWidths_answer hStop fun _ => ?_) h
  cases lookupDevice Config.deviceTable (BitVec.ofNat 32 id) with
  | none => exact ((unidentify_acts hw s).stops.error .unknownDevice ⟨nofun, nofun⟩).trans (withReturned_acts w _ _)
  | some r => exact (identify_acts hw s r).trans (complete_acts w _ _)

theorem exec_setPads_acts {a b c d : Nat} (hw : .pads ∈ w) (h : exec (.setPads a b c d) s = .next t) : Acts w [] s t := by
  have hStop := (Acts.refl w s).stops
  exact operation_answer hStop
    (fun _ => withinWidths_answer hStop fun _ => (setPads_acts hw s a b c d).trans (complete_acts w _ _)) h

/-- Everything SELECT_TARGET can answer: a stop that changes no register, or the registers of the row it found. -/
theorem exec_selectTarget_answer {P : State → Prop} {k : Nat} (hStop : Stops P s)
    (hSelected : ∀ n r rows, k < 2 ^ 8 → s.chain[k]? = some n → rowOf Config.deviceTable n = some r →
      rowsOf Config.deviceTable s.chain = some rows → P (complete .nothing (selected k r rows s)))
    (h : exec (.selectTarget k) s = .next t) : P t := by
  refine operation_answer hStop (fun _ => withinWidths_answer hStop fun hFit => ?_) h
  cases hNode : s.chain[k]? with
  | none => exact hStop.error .noSuchTap ⟨nofun, nofun⟩
  | some n =>
    dsimp only
    cases hRow : rowOf Config.deviceTable n with
    | none => exact hStop.error .unknownDevice ⟨nofun, nofun⟩
    | some r =>
      dsimp only
      cases hRows : rowsOf Config.deviceTable s.chain with
      | none => exact hStop.error .unknownIrLength ⟨nofun, nofun⟩
      | some rows =>
        dsimp only
        rw [selectEffect]
        dsimp only
        split
        · exact hSelected n r rows (fitAll_one.mp hFit) hNode hRow hRows
        · exact hStop.fault _ (by decide)

theorem exec_selectTarget_acts {k : Nat} (hPads : .pads ∈ w) (hIdentity : .identity ∈ w) (hChain : .chain ∈ w)
    (h : exec (.selectTarget k) s = .next t) : Acts w [] s t :=
  exec_selectTarget_answer (Acts.refl w s).stops
    (fun _ r rows _ _ _ _ => (selected_acts hPads hIdentity hChain k r rows s).trans (complete_acts w _ _)) h

theorem exec_keyLoad_acts {kb : List Byte} {cv : Bool} {crc : Nat} (hw : .key ∈ w) (h : exec (.keyLoad kb cv crc) s = .next t) :
    Acts w [] s t := by
  have hStop := (Acts.refl w s).stops
  refine operation_answer hStop (fun _ => withinWidths_answer hStop fun _ => ?_) h
  split
  · exact hStop.fault _ (by decide)
  · exact (withKey_acts hw s _).trans (complete_acts w _ _)

theorem exec_keyReadback_acts (h : exec .keyReadback s = .next t) : Acts w [] s t :=
  operation_answer (Acts.refl w s).stops (fun _ => complete_acts w _ s) h

/-! ## The protocol operations -/

/-- A fixed sequence and what follows it. -/
theorem afterFixed_acts {levels : List Bool} {v : Seq} {next : State → State} (hReady : s.ready) (hPseq : .pseq ∈ w) (hFault : .fault ∈ w)
    (hNext : ∀ u, Acts w levels u (next u)) :
    Acts w [] s (afterFixed v next s) ∨ Acts w levels s (afterFixed v next s) := by
  have hFixed := runFixed_acts hReady v hPseq hFault
  exact afterFixed_answer (P := fun u => Acts w [] s u ∨ Acts w levels s u) (fun _ => .inl hFixed)
    fun _ => .inr (hFixed.trans (hNext _))

theorem exec_jprogram_acts (hPseq : .pseq ∈ w) (hFault : .fault ∈ w) (h : exec .jprogram s = .next t) : Acts w [] s t := by
  have hEmptied := withPseq_acts hPseq s Seq.empty
  refine protocolOperation_answer (Acts.refl w s).stops hEmptied.stops (fun f hReady _ => ?_) h
  refine hEmptied.trans ((afterFixed_acts (s := s.withPseq Seq.empty) hReady hPseq hFault fun u => ?_).elim id id)
  exact ((delay_waited _ u).acts w).trans (complete_acts w _ _)

theorem handshake_acts (w : List Reg) (s : State) : Acts w [true, false] s (handshake s) := by
  obtain ⟨v, hHandled, -, h | h | h⟩ := handshake_handled s <;> rw [h]
  · exact (hHandled.acts w).trans (complete_acts w _ v)
  · exact (hHandled.acts w).stops.error _ ⟨nofun, nofun⟩
  · exact (hHandled.acts w).stops.error _ ⟨nofun, nofun⟩

theorem Stops.or {P Q : State → Prop} (h : Stops P s) : Stops (fun u => P u ∨ Q u) s :=
  ⟨.inl h.stuck, fun r hr => .inl (h.fault r hr), fun e he => .inl (h.error e he)⟩

theorem exec_efuseProgramRow_acts {row bit page : Nat} {red : Bool} (hPseq : .pseq ∈ w) (hFault : .fault ∈ w)
    (h : exec (.efuseProgramRow row bit page red) s = .next t) : Acts w [] s t ∨ Acts w [true, false] s t := by
  have hEmptied := withPseq_acts hPseq s Seq.empty
  have hStop : Stops (fun u => Acts w [] s u ∨ Acts w [true, false] s u) (s.withPseq Seq.empty) := hEmptied.stops.or
  refine protocolOperation_answer (Acts.refl w s).stops.or hStop (fun f hReady _ => withinWidths_answer hStop fun _ => ?_) h
  split
  · exact hStop.fault _ (by decide)
  cases Config.efuseDrEncode f (BitVec.ofNat 16 row) (BitVec.ofNat 5 bit) (BitVec.ofNat 8 page) red true with
  | none => exact hStop.error _ ⟨nofun, nofun⟩
  | some word =>
    refine withinWidths_answer hStop fun _ => ?_
    exact (afterFixed_acts (s := s.withPseq Seq.empty) hReady hPseq hFault (handshake_acts w)).imp hEmptied.trans hEmptied.trans

theorem exec_efuseReadRow_acts {row page : Nat} {red : Bool} (hPseq : .pseq ∈ w) (hFault : .fault ∈ w)
    (h : exec (.efuseReadRow row page red) s = .next t) : Acts w [] s t := by
  have hEmptied := withPseq_acts hPseq s Seq.empty
  refine protocolOperation_answer (Acts.refl w s).stops hEmptied.stops
    (fun f hReady _ => withinWidths_answer hEmptied.stops fun _ => ?_) h
  cases Config.efuseDrEncode f (BitVec.ofNat 16 row) 0#5 (BitVec.ofNat 8 page) red false with
  | none => exact hEmptied.stops.error _ ⟨nofun, nofun⟩
  | some word =>
    refine withinWidths_answer hEmptied.stops fun _ => ?_
    exact hEmptied.trans
      ((afterFixed_acts (s := s.withPseq Seq.empty) hReady hPseq hFault fun u => complete_acts w _ u).elim id id)

theorem exec_bbramProgram_acts (hPseq : .pseq ∈ w) (hFault : .fault ∈ w) (h : exec .bbramProgram s = .next t) : Acts w [] s t := by
  have hEmptied := withPseq_acts hPseq s Seq.empty
  refine protocolOperation_answer (Acts.refl w s).stops hEmptied.stops (fun f hReady _ => withKey_answer hEmptied.stops ?_) h
  split
  · exact hEmptied.stops.fault _ (by decide)
  · exact hEmptied.trans
      ((afterFixed_acts (s := s.withPseq Seq.empty) hReady hPseq hFault fun u => complete_acts w _ u).elim id id)

theorem checkReadback_legal {key : KeyRegs} {r : Readback} {e : ErrorCode} (h : checkReadback key r = some e) : e.legal := by
  unfold checkReadback at h
  split at h
  next k _ =>
    cases h
    exact ⟨fun j hj => by cases hj; exact k.isLt, nofun⟩
  next =>
    split at h
    next k _ =>
      cases h
      exact ⟨nofun, fun j hj => by cases hj; exact k.isLt⟩
    next =>
      split at h
      · cases h
        exact ⟨nofun, nofun⟩
      · cases h

theorem finishVerify_acts (hw : .readback ∈ w) (u : State) : Acts w [] u (finishVerify u) := by
  have hRead := withReadback_acts hw u (captureReadback u)
  rcases finishVerify_cases u with ⟨-, h⟩ | ⟨e, hCheck, h⟩ <;> rw [h]
  · exact hRead.trans (complete_acts w _ _)
  · exact hRead.stops.error _ (checkReadback_legal hCheck)

theorem exec_bbramVerify_acts (hPseq : .pseq ∈ w) (hFault : .fault ∈ w) (hRead : .readback ∈ w) (h : exec .bbramVerify s = .next t) :
    Acts w [] s t := by
  have hEmptied := withPseq_acts hPseq s Seq.empty
  refine protocolOperation_answer (Acts.refl w s).stops hEmptied.stops (fun f hReady _ => withKey_answer hEmptied.stops ?_) h
  exact hEmptied.trans
    ((afterFixed_acts (s := s.withPseq Seq.empty) hReady hPseq hFault (finishVerify_acts hRead)).elim id id)

end

/-! ## Every instruction -/

/-- What every instruction but PORT_INIT may change, and that only EFUSE_PROGRAM_ROW drives `HWM_START`: to 1, then to 0. -/
theorem exec_acts {i : Instr} {s t : State} (h : exec i s = .next t) (hInit : ∀ m, i ≠ .portInit m) :
    Acts (writes i) [] s t ∨ (Acts (writes i) [true, false] s t ∧ ∃ row bit page red, i = .efuseProgramRow row bit page red) := by
  cases i with
  | efuseProgramRow row bit page red =>
    exact (exec_efuseProgramRow_acts (by simp [writes]) (by simp [writes]) h).imp_right fun hActs => ⟨hActs, row, bit, page, red, rfl⟩
  | portInit m => exact absurd rfl (hInit m)
  | setState st idle =>
    exact .inl (unlessFaulted_answer (Acts.refl _ s).stops (fun _ => setStateBody_acts (by simp [writes]) st idle s) h)
  | shiftDr n tdi tdo exit =>
    exact .inl (unlessFaulted_answer (Acts.refl _ s).stops
      (fun _ => shiftBody_acts (by simp [writes]) (by simp [writes]) (by simp [writes]) .dr n tdi tdo exit s) h)
  | shiftIr n tdi tdo exit =>
    exact .inl (unlessFaulted_answer (Acts.refl _ s).stops
      (fun _ => shiftBody_acts (by simp [writes]) (by simp [writes]) (by simp [writes]) .ir n tdi tdo exit s) h)
  | navigate b => exact .inl (exec_navigate_acts h)
  | pulse count => exact .inl (exec_pulse_acts h)
  | shift dir n tdi capture exit => exact .inl (exec_shift_acts h)
  | seqCreate node => exact .inl (exec_seqCreate_acts (by simp [writes]) h)
  | seqAddState q st idle => exact .inl (exec_seqAddState_acts (by simp [writes]) h)
  | seqAddShift q flags n wi wo exit => exact .inl (exec_seqAddShift_acts (by simp [writes]) h)
  | seqClear q => exact .inl (exec_seqClear_acts (by simp [writes]) h)
  | seqDelete q => exact .inl (exec_seqDelete_acts (by simp [writes]) h)
  | bufWrite q k o bytes => exact .inl (exec_bufWrite_acts (by simp [writes]) h)
  | bufRead q k o n => exact .inl (exec_bufRead_acts h)
  | seqRun q => exact .inl (exec_seqRun_acts (by simp [writes]) (by simp [writes]) (by simp [writes]) h)
  | detectTaps => exact .inl (exec_detectTaps_acts (by simp [writes]) (by simp [writes]) (by simp [writes]) h)
  | identify id => exact .inl (exec_identify_acts (by simp [writes]) h)
  | setPads a b c d => exact .inl (exec_setPads_acts (by simp [writes]) h)
  | selectTarget k => exact .inl (exec_selectTarget_acts (by simp [writes]) (by simp [writes]) (by simp [writes]) h)
  | jprogram => exact .inl (exec_jprogram_acts (by simp [writes]) (by simp [writes]) h)
  | efuseReadRow row page red => exact .inl (exec_efuseReadRow_acts (by simp [writes]) (by simp [writes]) h)
  | keyLoad kb cv crc => exact .inl (exec_keyLoad_acts (by simp [writes]) h)
  | bbramProgram => exact .inl (exec_bbramProgram_acts (by simp [writes]) (by simp [writes]) h)
  | bbramVerify => exact .inl (exec_bbramVerify_acts (by simp [writes]) (by simp [writes]) (by simp [writes]) h)
  | keyReadback => exact .inl (exec_keyReadback_acts h)

theorem exec_acts_some {i : Instr} {s t : State} (h : exec i s = .next t) (hInit : ∀ m, i ≠ .portInit m) :
    ∃ levels, Acts (writes i) levels s t ∧ (levels = [] ∨ levels = [true, false]) :=
  (exec_acts h hInit).elim (fun hActs => ⟨[], hActs, .inl rfl⟩) fun hActs => ⟨[true, false], hActs.1, .inr rfl⟩

end Sys2Proof.Machine
end

section
/-! PROOF. What only some instructions write, clock or start (10_state.md sections 2 to 8, 40_navigator.md section 1, 46_efuse.md
section 3). -/

namespace Sys2Proof.Machine

open Sys2Proof

/-- Settles O49: a clock's events are those of the model's clock written out, and every instruction accounts for its clocks
(`exec_acts`). -/
theorem curFollowsTms : Obligations.CurFollowsTms := by
  refine ⟨fun s tms tdi => ?_, fun s t i h hInit => ?_⟩
  · cases tdi <;> exact ⟨rfl, rfl, rfl⟩
  · obtain ⟨levels, hActs, -⟩ := exec_acts_some h hInit
    exact hActs.clocks

section

variable {i : Instr}

theorem pads_writers (h : .pads ∈ writes i) (hInit : ∀ m, i ≠ .portInit m) :
    i = .detectTaps ∨ (∃ a b c d, i = .setPads a b c d) ∨ ∃ k, i = .selectTarget k := by
  cases i <;> simp_all [writes]

theorem identity_writers (h : .identity ∈ writes i) (hInit : ∀ m, i ≠ .portInit m) :
    (∃ id, i = .identify id) ∨ ∃ k, i = .selectTarget k := by
  cases i <;> simp_all [writes]

theorem chain_writers (h : .chain ∈ writes i) (hInit : ∀ m, i ≠ .portInit m) : i = .detectTaps ∨ ∃ k, i = .selectTarget k := by
  cases i <;> simp_all [writes]

theorem idList_writers (h : .idList ∈ writes i) (hInit : ∀ m, i ≠ .portInit m) : i = .detectTaps := by
  cases i <;> simp_all [writes]

theorem key_writers (h : .key ∈ writes i) (hInit : ∀ m, i ≠ .portInit m) : ∃ kb cv crc, i = .keyLoad kb cv crc := by
  cases i <;> simp_all [writes]

theorem readback_writers (h : .readback ∈ writes i) (hInit : ∀ m, i ≠ .portInit m) : i = .bbramVerify := by
  cases i <;> simp_all [writes]

theorem seqs_writers (h : .seqs ∈ writes i) (hInit : ∀ m, i ≠ .portInit m) :
    i.isHostOp = false ∨ (∃ node, i = .seqCreate node) ∨ (∃ q st idle, i = .seqAddState q st idle) ∨
      (∃ q flags n wi wo exit, i = .seqAddShift q flags n wi wo exit) ∨ (∃ q, i = .seqClear q) ∨ (∃ q, i = .seqDelete q) ∨
      (∃ q k o bytes, i = .bufWrite q k o bytes) ∨ ∃ q, i = .seqRun q := by
  cases i <;> simp_all [writes, Instr.isHostOp]

theorem pseq_writers (h : .pseq ∈ writes i) (hInit : ∀ m, i ≠ .portInit m) :
    i.isHostOp = false ∨ i = .jprogram ∨ i = .bbramProgram ∨ i = .bbramVerify ∨
      (∃ row bit page red, i = .efuseProgramRow row bit page red) ∨ ∃ row page red, i = .efuseReadRow row page red := by
  cases i <;> simp_all [writes, Instr.isHostOp]

theorem run_writers (h : .run ∈ writes i) (hInit : ∀ m, i ≠ .portInit m) : ∃ q, i = .seqRun q := by
  cases i <;> simp_all [writes]

theorem fault_writers (h : .fault ∈ writes i) (hHost : i.isHostOp = true) :
    (∃ q, i = .seqRun q) ∨ i = .jprogram ∨ i = .bbramProgram ∨ i = .bbramVerify ∨
      (∃ row bit page red, i = .efuseProgramRow row bit page red) ∨ ∃ row page red, i = .efuseReadRow row page red := by
  cases i <;> simp_all [writes, Instr.isHostOp]

theorem queue_writers (i : Instr) : .queue ∉ writes i := by
  cases i <;> simp [writes]

end

/-- A register outside an account's list keeps its value, so an instruction that changes it lists it. -/
theorem mem_of_changed {w : List Reg} {r : Reg} {p : Prop} (hChanged : p) (hKept : r ∉ w → ¬ p) : r ∈ w :=
  not_not.mp fun h => hKept h hChanged

/-- Settles O50: an instruction writes the registers its account lists (`exec_acts`), and each list has these writers. -/
theorem registerWriters : Obligations.RegisterWriters := by
  intro s t i h hInit
  obtain ⟨levels, hActs, -⟩ := exec_acts_some h hInit
  refine ⟨hActs.init, hActs.pinmap, hActs.queue (queue_writers i), hActs.grows, fun hChanged => pads_writers ?_ hInit,
    fun hChanged => identity_writers ?_ hInit, fun hChanged => chain_writers ?_ hInit, fun hChanged => idList_writers ?_ hInit,
    fun hChanged => key_writers ?_ hInit, fun hChanged => readback_writers ?_ hInit, fun hChanged => seqs_writers ?_ hInit,
    fun hChanged => pseq_writers ?_ hInit⟩
  · refine mem_of_changed hChanged fun hw => ?_
    obtain ⟨hIrPre, hIrPost, hDrPre, hDrPost⟩ := hActs.pads hw
    simp [hIrPre, hIrPost, hDrPre, hDrPost]
  · refine mem_of_changed hChanged fun hw => ?_
    obtain ⟨hFamily, hLength, hSegments, hMaster⟩ := hActs.identity hw
    simp [hFamily, hLength, hSegments, hMaster]
  · refine mem_of_changed hChanged fun hw => ?_
    obtain ⟨hTarget, hChain⟩ := hActs.chain hw
    simp [hTarget, hChain]
  · exact mem_of_changed hChanged fun hw => not_not.mpr (hActs.idList hw)
  · exact mem_of_changed hChanged fun hw => not_not.mpr (hActs.key hw)
  · exact mem_of_changed hChanged fun hw => not_not.mpr (hActs.readback hw)
  · exact mem_of_changed hChanged fun hw => not_not.mpr (hActs.seqs hw)
  · exact mem_of_changed hChanged fun hw => not_not.mpr (hActs.pseq hw)

/-! ## PORT_INIT, and the fuse-blow module -/

/-- Everything PORT_INIT can answer: a stop, or every register reset and five TMS-high clocks. -/
theorem exec_portInit_answer {P : State → Prop} {m : PinMap} {s t : State} (hStop : Stops P s)
    (hReset : s.fault = none → pinMapLegal Config.gpioCount m = true →
      P (complete .nothing (walk (List.replicate 5 true) (parked m s))))
    (h : exec (.portInit m) s = .next t) : P t := by
  have hExec : execPortInit m s = .next t := h
  refine unlessFaulted_answer hStop (fun hLive => ?_) hExec
  split
  next hLegal => exact hReset hLive hLegal
  · exact hStop.error .badPinAssignment ⟨nofun, nofun⟩

/-- The module is asked to start once for each 1 driven. -/
theorem fuseStarts_of_drove {s t : State} {levels : List Bool} (h : drove .hwmStart s t levels) :
    fuseStarts t.trace = fuseStarts s.trace + levels.count true := by
  unfold drove at h
  rw [fuseStarts, h, List.count_append, List.count_reverse, Nat.add_comm]
  rfl

theorem parked_droveHwm (m : PinMap) (s : State) : drove .hwmStart s (parked m s) [false] := rfl

/-- Settles O51: PORT_INIT drives `HWM_START` to 0, EFUSE_PROGRAM_ROW to 1 once, and nothing else drives it (`exec_acts`). -/
theorem onlyFuseProgramStarts : Obligations.OnlyFuseProgramStarts := by
  intro s t i h
  by_cases hInit : ∀ m, i ≠ .portInit m
  · rcases exec_acts h hInit with hActs | ⟨hActs, hProgram⟩
    · exact .inl (fuseStarts_of_drove hActs.starts)
    · exact .inr ⟨fuseStarts_of_drove hActs.starts, hProgram⟩
  · push Not at hInit
    obtain ⟨m, rfl⟩ := hInit
    refine .inl (exec_portInit_answer (P := fun u => fuseStarts u.trace = fuseStarts s.trace)
      ⟨rfl, fun _ _ => rfl, fun _ _ => rfl⟩ (fun _ _ => ?_) h)
    obtain ⟨tdo, hWalk⟩ := walk_clocked (List.replicate 5 true) (parked m s)
    have hWalked := fuseStarts_of_drove hWalk.droveHwm
    exact hWalked.trans (fuseStarts_of_drove (parked_droveHwm m s))

end Sys2Proof.Machine
end

section
/-! PROOF. What a step can be (10_state.md R38, 60_exceptions.md R176, R184, R196), and what it may change unless it runs a host operation;
settles the invariants of the pins, the identity registers, the key, `RESULT` and `CHAIN`. -/

namespace Sys2Proof

/-! ## What the host decoder answers -/

/-- A decoder's answer has `P`, and it refuses by no reason of a command word. -/
def Decodes {α : Type} (P : α → Prop) (d : Except DecodeError α) : Prop :=
  (∀ a, d = .ok a → P a) ∧ ∀ e, d = .error e → e ≠ .reservedBits ∧ e ≠ .strayField

section

variable {α β : Type} {P : α → Prop} {Q : β → Prop} {op : Byte} {bs : List Byte}

theorem decodes_ok {a : α} (h : P a) : Decodes P (.ok a) := ⟨fun _ hOk => by cases hOk; exact h, nofun⟩

theorem decodes_error {e : DecodeError} (h : e ≠ .reservedBits ∧ e ≠ .strayField) : Decodes P (.error e) :=
  ⟨nofun, fun _ hError => by cases hError; exact h⟩

theorem Decodes.bind {d : Except DecodeError α} {f : α → Except DecodeError β} (hd : Decodes P d) (hf : ∀ a, P a → Decodes Q (f a)) :
    Decodes Q (d >>= f) := by
  cases d with
  | ok a => exact hf a (hd.1 a rfl)
  | error e => exact decodes_error (hd.2 e rfl)

theorem takeNum_decodes : Decodes (fun _ => True) (takeNum op bs) := by
  unfold takeNum
  split
  · exact decodes_error ⟨nofun, nofun⟩
  · exact decodes_ok trivial

theorem takeSmall_decodes {limit : Nat} : Decodes (fun _ => True) (takeSmall op limit bs) := by
  unfold takeSmall
  split
  · exact decodes_error ⟨nofun, nofun⟩
  · split
    · exact decodes_ok trivial
    · exact decodes_error ⟨nofun, nofun⟩

theorem takeBytes_decodes : Decodes (fun _ => True) (takeBytes op bs) := by
  refine takeNum_decodes.bind fun a _ => ?_
  dsimp only
  split
  · exact decodes_error ⟨nofun, nofun⟩
  · exact decodes_ok trivial

theorem takeState_decodes : Decodes (fun _ => True) (takeState op bs) := takeSmall_decodes.bind fun _ _ => decodes_ok trivial

theorem takeBit_decodes : Decodes (fun _ => True) (takeBit op bs) := takeSmall_decodes.bind fun _ _ => decodes_ok trivial

theorem takeTdiMode_decodes : Decodes (fun _ => True) (takeTdiMode op bs) := by
  refine takeSmall_decodes.bind fun a _ => ?_
  dsimp only
  split
  · exact takeBytes_decodes.bind fun _ _ => decodes_ok trivial
  · split <;> exact decodes_ok trivial

theorem takeFour_decodes : Decodes (fun _ => True) (takeFour op bs) :=
  takeNum_decodes.bind fun _ _ => takeNum_decodes.bind fun _ _ => takeNum_decodes.bind fun _ _ =>
    takeNum_decodes.bind fun _ _ => decodes_ok trivial

theorem takePinMap_decodes : Decodes (fun _ => True) (takePinMap op bs) :=
  takeFour_decodes.bind fun _ _ => takeNum_decodes.bind fun _ _ => takeNum_decodes.bind fun _ _ =>
    takeNum_decodes.bind fun _ _ => decodes_ok trivial

theorem decodePinOp_decodes : Decodes (fun r => r.1.isHostOp = true) (decodePinOp op bs) := by
  unfold decodePinOp
  split
  · exact takePinMap_decodes.bind fun _ _ => decodes_ok rfl
  · exact takeState_decodes.bind fun _ _ => decodes_ok rfl
  · exact takeNum_decodes.bind fun _ _ => decodes_ok rfl
  · exact takeBit_decodes.bind fun _ _ => takeNum_decodes.bind fun _ _ => takeTdiMode_decodes.bind fun _ _ =>
      takeBit_decodes.bind fun _ _ => takeState_decodes.bind fun _ _ => decodes_ok rfl
  · exact decodes_error ⟨nofun, nofun⟩

theorem decodeSeqOp_decodes : Decodes (fun r => r.1.isHostOp = true) (decodeSeqOp op bs) := by
  unfold decodeSeqOp
  split
  · exact takeNum_decodes.bind fun _ _ => decodes_ok rfl
  · exact takeNum_decodes.bind fun _ _ => takeState_decodes.bind fun _ _ => takeNum_decodes.bind fun _ _ => decodes_ok rfl
  · exact takeNum_decodes.bind fun _ _ => takeNum_decodes.bind fun _ _ => takeNum_decodes.bind fun _ _ =>
      takeBit_decodes.bind fun _ _ => takeBit_decodes.bind fun _ _ => takeState_decodes.bind fun _ _ => decodes_ok rfl
  · exact takeNum_decodes.bind fun _ _ => decodes_ok rfl
  · exact takeNum_decodes.bind fun _ _ => decodes_ok rfl
  · exact takeNum_decodes.bind fun _ _ => takeNum_decodes.bind fun _ _ => takeNum_decodes.bind fun _ _ =>
      takeBytes_decodes.bind fun _ _ => decodes_ok rfl
  · exact takeFour_decodes.bind fun _ _ => decodes_ok rfl
  · exact takeNum_decodes.bind fun _ _ => decodes_ok rfl
  · exact decodes_error ⟨nofun, nofun⟩

theorem decodeProtocolOp_decodes : Decodes (fun r => r.1.isHostOp = true) (decodeProtocolOp op bs) := by
  unfold decodeProtocolOp
  split
  · exact decodes_ok rfl
  · exact takeNum_decodes.bind fun _ _ => decodes_ok rfl
  · exact takeFour_decodes.bind fun _ _ => decodes_ok rfl
  · exact takeNum_decodes.bind fun _ _ => decodes_ok rfl
  · exact decodes_ok rfl
  · exact takeNum_decodes.bind fun _ _ => takeNum_decodes.bind fun _ _ => takeNum_decodes.bind fun _ _ =>
      takeBit_decodes.bind fun _ _ => decodes_ok rfl
  · exact takeNum_decodes.bind fun _ _ => takeNum_decodes.bind fun _ _ => takeBit_decodes.bind fun _ _ => decodes_ok rfl
  · exact takeBytes_decodes.bind fun _ _ => takeBit_decodes.bind fun _ _ => takeNum_decodes.bind fun _ _ => decodes_ok rfl
  · exact decodes_ok rfl
  · exact decodes_ok rfl
  · exact decodes_ok rfl
  · exact decodes_error ⟨nofun, nofun⟩

/-- A host record holds a host operation, and is never refused as a command word is. -/
theorem decodeHostOp_decodes (record : List Byte) : Decodes (fun r => r.1.isHostOp = true) (decodeHostOp record) := by
  unfold decodeHostOp
  split
  · exact decodes_error ⟨nofun, nofun⟩
  · split
    · exact decodePinOp_decodes
    · split
      · exact decodeSeqOp_decodes
      · exact decodeProtocolOp_decodes

end

end Sys2Proof

namespace Sys2Proof.Machine

open Sys2Proof

/-! ## What a step can be -/

/-- What a step from `s` to `t` is. -/
inductive Stepped (s t : State) : Prop where
  /-- A faulted block takes the next record without effect. -/
  | stuck (h : t = stuckStep s)
  /-- The run is over. -/
  | runEnd (hLive : s.fault = none) (q : Nat) (v : Seq) (hRun : s.activeRun = some q) (hSeq : s.seqAt q = some v) (h : t = endRun s)
  /-- The command at `EXEC.PC` runs. -/
  | command (hReady : s.ready) (q : Nat) (v : Seq) (w : Word64) (hRun : s.exec.seq = some q) (hSeq : s.seqAt q = some v)
      (hAt : v.cmds[s.exec.pc]? = some w) (h : t = advancePc (wordBody w s))
  /-- Nothing to do. -/
  | idle (h : t = s)
  /-- The oldest record is refused. -/
  | refused (hLive : s.fault = none) (hRun : s.activeRun = none) (record : List Byte) (rest : List (List Byte)) (e : DecodeError)
      (hKind : e ≠ .reservedBits ∧ e ≠ .strayField) (h : t = refuseRecord record e (s.withHostQueue rest))
  /-- The oldest record runs. -/
  | host (hLive : s.fault = none) (hRun : s.activeRun = none) (rest : List (List Byte)) (i : Instr) (hHost : i.isHostOp = true)
      (h : exec i (s.withHostQueue rest) = .next t)

theorem ready_of_activeRun {s : State} {q : Nat} (hLive : s.fault = none) (h : s.activeRun = some q) : s.ready ∧ s.exec.seq = some q := by
  rcases activeRun_spec s with ⟨hInit, hRun⟩ | ⟨-, hRun⟩ <;> rw [hRun] at h
  · exact ⟨⟨hInit, hLive⟩, h⟩
  · cases h

theorem step_cases {s t : State} (h : step s = .next t) : Stepped s t := by
  cases hFault : s.fault with
  | some r =>
    rw [step_faulted hFault] at h
    cases h
    exact .stuck rfl
  | none =>
    rcases fetch_spec s with ⟨hRun, ⟨-, hFetch⟩ | ⟨record, rest, -, hFetch⟩⟩ |
      ⟨q, hRun, ⟨-, hFetch⟩ | ⟨v, hSeq, ⟨hEnd, hFetch⟩ | ⟨w, hAt, hFetch⟩⟩⟩
    · simp only [step, hFault, hFetch] at h
      cases h
      exact .idle rfl
    · cases hDecoded : decodeHostOp record with
      | error e =>
        rw [step_refused hFault hFetch hDecoded] at h
        cases h
        exact .refused hFault hRun record rest e ((decodeHostOp_decodes record).2 e hDecoded) rfl
      | ok r =>
        rw [step_host hFault hFetch hDecoded] at h
        exact .host hFault hRun rest r.1 ((decodeHostOp_decodes record).1 r hDecoded) h
    · simp only [step, hFault, hFetch] at h
      cases h
    · obtain ⟨hReady, hExec⟩ := ready_of_activeRun hFault hRun
      rw [step_runEnd hReady hExec hSeq hEnd] at h
      cases h
      exact .runEnd hFault q v hRun hSeq rfl
    · obtain ⟨hReady, hExec⟩ := ready_of_activeRun hFault hRun
      rw [step_word hReady hExec hSeq hAt] at h
      cases h
      exact .command hReady q v w hExec hSeq hAt rfl

/-! ## Refused records -/

section

variable {P : State → Prop} {s : State}

theorem refuseArguments_answer (hStop : Stops P s) (hEmptied : Stops P (s.withPseq Seq.empty)) (op : Byte) (args : List Byte)
    {r : FaultReason} (hr : r ≠ .badCommand) : P (refuseArguments op args r s) := by
  unfold refuseArguments
  split
  · exact withOpenSeq_answer hStop fun _ _ _ => hStop.fault r hr
  · exact withOpenSeq_answer hStop fun _ _ _ => hStop.fault r hr
  · exact withSeq_answer hStop fun _ _ => hStop.fault r hr
  · exact withSeq_answer hStop fun _ _ => hStop.fault r hr
  · exact withTarget_answer hEmptied fun _ _ => hEmptied.fault r hr
  · exact withTarget_answer hEmptied fun _ _ => hEmptied.fault r hr
  · exact hStop.fault r hr

/-- A refused record only stops the block, `PSEQ` emptied or not (43_executor.md R127). -/
theorem refuseRecord_answer (hStop : Stops P s) (hEmptied : Stops P (s.withPseq Seq.empty)) (record : List Byte) {e : DecodeError}
    (hKind : e ≠ .reservedBits ∧ e ≠ .strayField) : P (refuseRecord record e s) := by
  unfold refuseRecord
  cases e <;> dsimp only
  case unknownOp => exact hStop.fault _ (by decide)
  case reservedBits => exact absurd rfl hKind.1
  case strayField => exact absurd rfl hKind.2
  case truncated | operandTooWide =>
    split
    · exact hStop.fault _ (by decide)
    · split
      · exact hStop.fault _ (by decide)
      · exact refuseArguments_answer hStop hEmptied _ _ (by decide)

end

/-! ## Steps that run no host operation -/

/-- What a step may change when it runs no host operation. -/
theorem Stepped.acts_or_host {s t : State} (h : Stepped s t) :
    Acts [.queue, .seqs, .pseq, .fault] [] s t ∨
      ∃ rest i, s.fault = none ∧ s.activeRun = none ∧ i.isHostOp = true ∧ exec i (s.withHostQueue rest) = .next t := by
  cases h with
  | stuck h => exact .inl (h ▸ (withHostQueue_acts (by simp) s _).trans (stuck_acts _ _))
  | runEnd hLive q v hRun hSeq h => exact .inl (h ▸ (endRun_exec_acts _ (.inr rfl)).trans (complete_acts _ _ _))
  | command hReady q v w hRun hSeq hAt h =>
    subst h
    cases hLegal : wordLegal s.curSeq w with
    | true =>
      obtain ⟨samples, hWord⟩ := wordBody_ran hReady.1 hLegal
      rw [advancePc_live (hWord.ran.fault.trans hReady.2)]
      exact .inl ((hWord.ran.setPc _).acts (.inl (by simp)) (.inl (by simp)))
    | false =>
      rw [wordBody_refused hReady.1 hLegal, advancePc_takeFault]
      exact .inl (badCommand_acts (by simp) s)
  | idle h => exact .inl (h ▸ Acts.refl _ _)
  | refused hLive hRun record rest e hKind h =>
    have hPopped := withHostQueue_acts (w := [.queue, .seqs, .pseq, .fault]) (by simp) s rest
    exact .inl (h ▸ refuseRecord_answer hPopped.stops (hPopped.trans (withPseq_acts (by simp) _ Seq.empty)).stops record hKind)
  | host hLive hRun rest i hHost h => exact .inr ⟨rest, i, hLive, hRun, hHost, h⟩

/-- A property that the queue of host records does not show is kept by every step when these accounts and the host operations keep it. -/
theorem kept_of_exec {P : State → Prop} (hQueue : ∀ s rest, P s → P (s.withHostQueue rest))
    (hActs : ∀ s t, Acts [.queue, .seqs, .pseq, .fault] [] s t → P s → P t) (hExec : ∀ i s t, exec i s = .next t → P s → P t)
    {s t : State} (h : step s = .next t) (hP : P s) : P t := by
  rcases (step_cases h).acts_or_host with hQuiet | ⟨rest, i, -, -, -, hHost⟩
  · exact hActs s t hQuiet hP
  · exact hExec i _ t hHost (hQueue s rest hP)

/-! ## The pins -/

theorem Acts.keeps_pins {w : List Reg} {levels : List Bool} {s t : State} (h : Acts w levels s t)
    (hLevels : levels = [] ∨ levels = [true, false]) (hPins : s.pinsParked ∧ s.pinMapUsable) : t.pinsParked ∧ t.pinMapUsable := by
  refine ⟨fun hInit => ?_, fun hInit => ?_⟩ <;> rw [h.init] at hInit
  · obtain ⟨hTck, hHwm⟩ := hPins.1 hInit
    refine ⟨h.tckLow hTck, ?_⟩
    rw [h.latch]
    rcases hLevels with rfl | rfl
    · exact hHwm
    · rfl
  · rw [h.pinmap]
    exact hPins.2 hInit

/-- The state PORT_INIT leaves, but for its outcome. -/
theorem walked_parked (m : PinMap) (s : State) : ∃ tdo, Clocked (parked m s) (walk (List.replicate 5 true) (parked m s))
    (List.replicate 5 true) [] tdo := walk_clocked _ _

/-- Settles O56: driving parks what it drove (`exec_acts_some`), and PORT_INIT parks every pin of a legal map. -/
theorem stepKeepsPins : Obligations.StepKeepsPins := by
  intro s t hParked hUsable h
  refine kept_of_exec (P := fun u => u.pinsParked ∧ u.pinMapUsable) (fun _ _ hPins => hPins)
    (fun _ _ hActs => hActs.keeps_pins (.inl rfl)) (fun i s t h hPins => ?_) h ⟨hParked, hUsable⟩
  by_cases hInit : ∀ m, i ≠ .portInit m
  · obtain ⟨levels, hActs, hLevels⟩ := exec_acts_some h hInit
    exact hActs.keeps_pins hLevels hPins
  · push Not at hInit
    obtain ⟨m, rfl⟩ := hInit
    refine exec_portInit_answer (P := fun u => u.pinsParked ∧ u.pinMapUsable) ⟨hPins, fun _ _ => hPins, fun _ _ => hPins⟩
      (fun _ hLegal => ?_) h
    obtain ⟨tdo, hWalk⟩ := walked_parked m s
    have hActs := hWalk.acts []
    refine ⟨fun _ => ⟨hActs.tckLow rfl, hActs.latch⟩, fun _ => ?_⟩
    rw [complete_port, hActs.pinmap]
    exact hLegal

end Sys2Proof.Machine
end

section
/-! PROOF. Every step keeps the identity registers, the key, `RESULT` and `CHAIN` consistent (10_state.md sections 3 to 8): what the writers
of each leave, and that PORT_INIT resets it. -/

namespace Sys2Proof.Machine

open Sys2Proof

/-! ## Invariants of a group of registers -/

/-- `P` of a state shows only the groups of registers `rs`, beside pins, `PORT.CUR`, `RESULT` and `FAULT`: an account that writes none of
them keeps it. -/
def ShowsOnly (rs : List Reg) (P : State → Prop) : Prop :=
  ∀ w levels s t, (∀ r ∈ rs, r ∉ w) → Acts w levels s t → P s → P t

section

variable {P : State → Prop} {rs : List Reg}

theorem ShowsOnly.stops (h : ShowsOnly rs P) {s : State} (hP : P s) : Stops P s where
  stuck := h [] [] s _ (fun _ _ => List.not_mem_nil) (Acts.refl [] s).stops.stuck hP
  fault := fun x hx => h [] [] s _ (fun _ _ => List.not_mem_nil) ((Acts.refl [] s).stops.fault x hx) hP
  error := fun e he => h [] [] s _ (fun _ _ => List.not_mem_nil) ((Acts.refl [] s).stops.error e he) hP

/-- Such a property is kept by every step, when what writes the groups keeps it and a reset gives it. -/
theorem ShowsOnly.step_keeps (hShows : ShowsOnly rs P) (hrs : ∀ r ∈ rs, r ∉ [Reg.queue, .seqs, .pseq, .fault])
    (hReset : ∀ m s, P (parked m s))
    (hWriters : ∀ i s t, (∃ r ∈ rs, r ∈ writes i) → (∀ m, i ≠ .portInit m) → exec i s = .next t → P s → P t) {s t : State}
    (h : step s = .next t) (hP : P s) : P t := by
  refine kept_of_exec (fun u rest hu => hShows _ _ u _ hrs (withHostQueue_acts (by simp) u rest) hu)
    (fun u v hActs hu => hShows _ _ u v hrs hActs hu) (fun i u v hExec hu => ?_) h hP
  by_cases hInit : ∀ m, i ≠ .portInit m
  · by_cases hw : ∃ r ∈ rs, r ∈ writes i
    · exact hWriters i u v hw hInit hExec hu
    · obtain ⟨levels, hActs, -⟩ := exec_acts_some hExec hInit
      exact hShows _ _ u v (fun r hr hIn => hw ⟨r, hr, hIn⟩) hActs hu
  · push Not at hInit
    obtain ⟨m, rfl⟩ := hInit
    refine exec_portInit_answer (hShows.stops hu) (fun _ _ => ?_) hExec
    obtain ⟨tdo, hWalk⟩ := walked_parked m u
    exact hShows [] _ _ _ (fun _ _ => List.not_mem_nil) ((hWalk.acts []).trans (complete_acts [] _ _)) (hReset m u)

end

/-! ## The identity registers -/

theorem lookupDevice_legal {id : BitVec 32} {r : DeviceRow} (h : lookupDevice Config.deviceTable id = some r) :
    1 ≤ r.irLength.toNat ∧ r.masterSegment.toNat < r.segments.toNat := by
  have hRow : r ∈ Config.deviceTable := List.mem_of_find?_eq_some h
  have hLegal := (List.mem_filter.mp hRow).2
  simp only [Config.rowLegal, Bool.and_eq_true, decide_eq_true_eq, and_assoc] at hLegal
  obtain ⟨hLength, -, hMaster, -⟩ := hLegal
  refine ⟨Nat.one_le_iff_ne_zero.mpr fun hZero => hLength ?_, hMaster⟩
  rw [BitVec.toNat_eq, hZero]
  rfl

theorem rowOf_legal {n : Node} {r : DeviceRow} (h : rowOf Config.deviceTable n = some r) :
    1 ≤ r.irLength.toNat ∧ r.masterSegment.toNat < r.segments.toNat := by
  unfold rowOf at h
  split at h
  · exact lookupDevice_legal h
  · cases h

theorem identity_shows : ShowsOnly [.identity] State.identityConsistent := by
  intro w levels s t hw h hP
  obtain ⟨hFamily, hLength, hSegments, hMaster⟩ := h.identity (hw _ List.mem_cons_self)
  unfold State.identityConsistent
  rw [hFamily, hLength, hSegments, hMaster]
  exact hP

theorem exec_keeps_identity {i : Instr} {s t : State} (hw : .identity ∈ writes i) (hInit : ∀ m, i ≠ .portInit m)
    (h : exec i s = .next t) (hP : s.identityConsistent) : t.identityConsistent := by
  have hStop := identity_shows.stops hP
  rcases identity_writers hw hInit with ⟨id, rfl⟩ | ⟨k, rfl⟩
  · refine operation_answer hStop (fun _ => withinWidths_answer hStop fun _ => ?_) h
    cases hRow : lookupDevice Config.deviceTable (BitVec.ofNat 32 id) with
    | none => exact .inl ⟨rfl, rfl, rfl, rfl⟩
    | some r => exact .inr ⟨nofun, lookupDevice_legal hRow⟩
  · exact exec_selectTarget_answer hStop (fun n r rows _ _ hRow _ => .inr ⟨nofun, rowOf_legal hRow⟩) h

/-! ## The key -/

theorem key_shows : ShowsOnly [.key] State.keyConsistent := by
  intro w levels s t hw h hP
  unfold State.keyConsistent
  rw [h.key (hw _ List.mem_cons_self)]
  exact hP

theorem loadedKey_consistent (kb : List Byte) (crcValid : Bool) (crc : Nat) (s : State) :
    (s.withKey (loadedKey kb crcValid crc)).keyConsistent :=
  ⟨fun _ => rfl, fun _ hInvalid => by
    obtain rfl : crcValid = false := hInvalid
    rfl⟩

theorem exec_keeps_key {i : Instr} {s t : State} (hw : .key ∈ writes i) (hInit : ∀ m, i ≠ .portInit m) (h : exec i s = .next t)
    (hP : s.keyConsistent) : t.keyConsistent := by
  have hStop := key_shows.stops hP
  obtain ⟨kb, crcValid, crc, rfl⟩ := key_writers hw hInit
  refine operation_answer hStop (fun _ => withinWidths_answer hStop fun _ => ?_) h
  split
  · exact hStop.fault _ (by decide)
  · exact key_shows [] [] _ _ (fun _ _ => List.not_mem_nil) (complete_acts [] _ _) (loadedKey_consistent kb crcValid crc s)

theorem parked_key (m : PinMap) (s : State) : (parked m s).key.crcValid = false ∧ (parked m s).key.loaded = false := ⟨rfl, rfl⟩

theorem parked_keyConsistent (m : PinMap) (s : State) : (parked m s).keyConsistent := by
  obtain ⟨hCrc, hLoaded⟩ := parked_key m s
  unfold State.keyConsistent
  rw [hCrc, hLoaded]
  exact ⟨nofun, nofun⟩

theorem result_shows : ShowsOnly [] fun s => resultLegal s.result := fun _ _ _ _ _ h => h.result

/-- Settles O57: the writers of each group leave it consistent, and every account keeps `RESULT` a legal word. -/
theorem stepKeepsIdentityKeyResult : Obligations.StepKeepsIdentityKeyResult := by
  refine ⟨fun s t hP h => ?_, fun s t hP h => ?_, fun s t hP h => ?_⟩
  · refine identity_shows.step_keeps (by simp) (fun _ _ => .inl ⟨rfl, rfl, rfl, rfl⟩) (fun i u v hw hInit hExec hu => ?_) h hP
    exact exec_keeps_identity (by simpa using hw) hInit hExec hu
  · refine key_shows.step_keeps (by simp) parked_keyConsistent (fun i u v hw hInit hExec hu => ?_) h hP
    exact exec_keeps_key (by simpa using hw) hInit hExec hu
  · refine result_shows.step_keeps (by simp) (fun _ _ => .inl rfl) (fun i u v hw => ?_) h hP
    simp at hw

/-! ## The chain -/

/-- `CHAIN`, `IDLIST` and `PORT.TARGET` are those of a consistent state (`State.chainConsistent`). -/
def ChainOk (chain : List Node) (idList : List IdEntry) (target : BitVec 8) : Prop :=
  chain.map Node.entry = idList ∧ chain.length ≤ Config.maxTaps ∧
    ∀ k n, chain[k]? = some n →
      n.ordinal = BitVec.ofNat 8 k ∧ (n.kind = .idcode → n.idcode.getLsbD 0 = true) ∧ (n.kind = .bypass → n.idcode = 0#32) ∧
        (n.active = true ↔ target = BitVec.ofNat 8 k)

theorem chainConsistent_iff (s : State) : s.chainConsistent ↔ ChainOk s.chain s.idList s.port.target := Iff.rfl

theorem chain_shows : ShowsOnly [.chain, .idList] State.chainConsistent := by
  intro w levels s t hw h hP
  obtain ⟨hTarget, hNodes⟩ := h.chain (hw _ (by simp))
  rw [chainConsistent_iff, hTarget, hNodes, h.idList (hw _ (by simp))]
  exact hP

theorem maxTaps_le : Config.maxTaps ≤ 255 := by
  unfold Config.maxTaps
  omega

/-- Ordinals within `MAX_TAPS` are told apart by 8 bits, and none is the mark of no target. -/
theorem ordinal_inj {j k : Nat} (hj : j < 256) (hk : k < 256) : BitVec.ofNat 8 j = BitVec.ofNat 8 k ↔ j = k := by
  rw [BitVec.toNat_eq, toNat_ofNat_lt hj, toNat_ofNat_lt hk]

theorem chainOk_nil (target : BitVec 8) : ChainOk [] [] target := ⟨rfl, Nat.zero_le _, nofun⟩

/-- What DETECT_TAPS decodes is a consistent chain with no target. -/
theorem chainOk_decoded {c : List Bool} {l : List IdEntry} (h : decodeChain Config.dummyId Config.maxTaps c = some l) :
    ChainOk (chainOf 0 l) l 0xFF#8 := by
  obtain ⟨hRoom, hOdd, -⟩ := decodedIdCodesOdd _ _ _ _ h
  have hLength : (chainOf 0 l).length = l.length := by
    rw [← List.length_map (f := Node.entry), chainOf_entries]
  refine ⟨chainOf_entries 0 l, hLength.trans_le hRoom, fun k n hNode => ?_⟩
  obtain ⟨hOrdinal, -, hInactive⟩ := chainOf_node hNode
  have hPlace : k < 255 := by
    have := (List.getElem?_eq_some_iff.mp hNode).1
    have := maxTaps_le
    omega
  rw [chainOf_getElem?] at hNode
  obtain ⟨e, hEntry, rfl⟩ := Option.map_eq_some_iff.mp hNode
  have hTarget : (0xFF#8 : BitVec 8) ≠ BitVec.ofNat 8 k := fun hEq => by
    have := (ordinal_inj (j := 255) (k := k) (by omega) (by omega)).mp hEq
    omega
  refine ⟨hOrdinal, fun hKind => ?_, fun hKind => ?_, by rw [hInactive]; exact ⟨nofun, fun hEq => absurd hEq hTarget⟩⟩
  · cases e with
    | idCode v => exact hOdd v (List.mem_of_getElem? hEntry)
    | bypass => cases hKind
  · cases e with
    | idCode v => cases hKind
    | bypass => rfl

/-- SELECT_TARGET marks the target and changes no entry. -/
theorem chainOk_marked {chain : List Node} {idList : List IdEntry} {target : BitVec 8} {rows : List DeviceRow} {k : Nat}
    (hOk : ChainOk chain idList target) (hRows : rows.length = chain.length) (hPlace : k < 256) :
    ChainOk (markChain k 0 chain rows) idList (BitVec.ofNat 8 k) := by
  obtain ⟨hEntries, hRoom, hNodes⟩ := hOk
  have hLength := markChain_length k 0 hRows
  have hMarked : ∀ (j : Nat) (x : Node), chain[j]? = some x → ∃ row : DeviceRow,
      (markChain k 0 chain rows)[j]? = some { x with irLength := row.irLength, active := decide (j = k) } := fun j x hNode => by
    have hIn : j < rows.length := hRows ▸ (List.getElem?_eq_some_iff.mp hNode).1
    exact ⟨rows[j], by rw [markChain_getElem? k 0 hNode (List.getElem?_eq_getElem hIn), Nat.zero_add]⟩
  have hNodeOf : ∀ (j : Nat) (n : Node), (markChain k 0 chain rows)[j]? = some n → ∃ x row, chain[j]? = some x ∧ j < chain.length ∧
      n = { x with irLength := row, active := decide (j = k) } := fun j n hNode => by
    have hIn : j < chain.length := hLength ▸ (List.getElem?_eq_some_iff.mp hNode).1
    obtain ⟨row, hMark⟩ := hMarked j chain[j] (List.getElem?_eq_getElem hIn)
    exact ⟨chain[j], row.irLength, List.getElem?_eq_getElem hIn, hIn, Option.some.inj (hNode.symm.trans hMark)⟩
  refine ⟨?_, hLength.trans_le hRoom, fun j n hNode => ?_⟩
  · rw [← hEntries]
    refine List.ext_getElem? fun j => ?_
    rw [List.getElem?_map, List.getElem?_map]
    cases hNode : chain[j]? with
    | none =>
      rw [List.getElem?_eq_none_iff] at hNode
      rw [List.getElem?_eq_none_iff.mpr (hLength.trans_le hNode)]
    | some x =>
      obtain ⟨row, hMark⟩ := hMarked j x hNode
      rw [hMark]
      rfl
  · obtain ⟨x, row, hOld, hIn, rfl⟩ := hNodeOf j n hNode
    obtain ⟨hOrdinal, hOdd, hZero, -⟩ := hNodes j x hOld
    have := maxTaps_le
    exact ⟨hOrdinal, hOdd, hZero, by rw [ordinal_inj hPlace (by omega), decide_eq_true_iff, eq_comm]⟩

theorem exec_keeps_chain {i : Instr} {s t : State} (hw : .chain ∈ writes i ∨ .idList ∈ writes i) (hInit : ∀ m, i ≠ .portInit m)
    (h : exec i s = .next t) (hP : s.chainConsistent) : t.chainConsistent := by
  have hStop := chain_shows.stops hP
  have hWriter : i = .detectTaps ∨ ∃ k, i = .selectTarget k :=
    hw.elim (fun hw => chain_writers hw hInit) fun hw => .inl (idList_writers hw hInit)
  rcases hWriter with rfl | ⟨k, rfl⟩
  · have hExec : execDetectTaps s = .next t := h
    refine operation_answer hStop (fun _ => ?_) hExec
    obtain ⟨walkIn, walkOut, -, -, hScan⟩ := discoveryScan_clocked s
    obtain ⟨-, -, -, -, -, -, -, -, -, hTarget, -⟩ := hScan.drives.port_fields
    dsimp only
    cases hDecoded : decodeChain Config.dummyId Config.maxTaps (discoveryScan s).1 with
    | none => exact chainOk_nil _
    | some l =>
      refine (chainConsistent_iff _).mpr ?_
      rw [complete_port, State.withChain_port, State.withIdList_port, hTarget]
      exact chainOk_decoded hDecoded
  · exact exec_selectTarget_answer hStop (fun n r rows hPlace _ _ hRows => chainOk_marked hP (rowsOf_length hRows) hPlace) h

/-- Settles O58: DETECT_TAPS decodes a consistent chain, SELECT_TARGET marks one node of it, and PORT_INIT empties it. -/
theorem stepKeepsChain : Obligations.StepKeepsChain := by
  intro s t hP h
  refine chain_shows.step_keeps (by simp) (fun _ _ => chainOk_nil _) (fun i u v hw hInit hExec hu => ?_) h hP
  exact exec_keeps_chain (by simpa using hw) hInit hExec hu

end Sys2Proof.Machine
end

section
/-! PROOF. Every step keeps every sequence as the builder makes them (30_encoding.md R75, 10_state.md section 5): one account of the sequence
table for any property of sequences that building and running keep; settles the buffers' canonical form and the legality of every word. -/

namespace Sys2Proof.Machine

open Sys2Proof

/-! ## Properties of sequences -/

/-- A property of sequences that the builder and the executor keep. -/
structure SeqKept (G : Seq → Prop) : Prop where
  created : ∀ node, G { Seq.empty with node := node }
  cleared : ∀ v, G v → G { v with cmds := [], pool := [], consumed := false }
  addState : ∀ v st idle, G v → setStateLegal st idle = true → G (v.addState st idle)
  addShift : ∀ v dir fill n wantTdi wantTdo exit, G v → 1 ≤ n → n ≤ Config.maxShiftBits →
    v.pool.length + wantCount wantTdi wantTdo ≤ Config.handleCount → G (v.addShift dir fill n wantTdi wantTdo exit)
  consumed : ∀ v, G v → G { v with consumed := true }
  rebytes : ∀ v v', Rebytes v v' → G v → G v'

/-- Writing bytes leaves the sizes of the buffers. -/
theorem set_sizes {pool : List Memory} {k : Nat} {m m' : Memory} (hMem : pool[k]? = some m) (hSize : m'.size = m.size) :
    (pool.set k m').map Memory.size = pool.map Memory.size := by
  obtain ⟨hBound, rfl⟩ := List.getElem?_eq_some_iff.mp hMem
  rw [List.map_set, hSize, ← List.getElem_map Memory.size (h := by rwa [List.length_map]), List.set_getElem_self]

theorem memWrite_rebytes {v : Seq} {k o : Nat} {bytes : List Byte} {pool : List Memory} (h : memWrite v.pool k o bytes = some pool) :
    Rebytes v { v with pool := pool } := by
  refine ⟨rfl, rfl, rfl, ?_, fun hWf => memWrite_wf hWf h⟩
  obtain ⟨m, hMem, -, rfl⟩ := memWrite_spec h
  exact set_sizes hMem (Memory.setBytes_size m o bytes)

/-! ### The canonical form of buffers -/

theorem addShift_wf {v : Seq} (h : v.pool.all Memory.wf = true) (dir : Dir) (fill : Bool) (n : Nat) (wantTdi wantTdo : Bool)
    (exit : TapState) : (v.addShift dir fill n wantTdi wantTdo exit).pool.all Memory.wf = true := by
  rw [Seq.addShift, List.all_append, h, Bool.true_and, List.all_eq_true]
  intro m hm
  rw [List.eq_of_mem_replicate hm]
  exact newBuffer_wf _

theorem wf_seqKept : SeqKept fun v => v.pool.all Memory.wf = true where
  created := fun _ => rfl
  cleared := fun _ _ => rfl
  addState := fun _ _ _ h _ => h
  addShift := fun _ dir fill n wantTdi wantTdo exit h _ _ _ => addShift_wf h dir fill n wantTdi wantTdo exit
  consumed := fun _ h => h
  rebytes := fun _ _ hBytes h => hBytes.wf h

/-! ### The legality of every word -/

theorem shiftLegal_wellFormed {v : Seq} {n : Nat} {tdi : TdiSource} {tdo : Option Nat} (h : shiftLegal v n tdi tdo = true) :
    shiftWellFormed n tdi tdo = true := by
  rw [shiftLegal, Bool.and_eq_true, Bool.and_eq_true] at h
  exact h.1.1

/-- A word stays legal when buffers are added. -/
theorem wordLegal_mono {v v' : Seq} {w : Word64} (hPool : ∀ (k : Nat) (m : Memory), v.pool[k]? = some m → v'.pool[k]? = some m)
    (h : wordLegal v w = true) : wordLegal v' w = true := by
  rcases wordLegal_cases h with ⟨st, idle, hWord, hLegal⟩ | ⟨dir, n, tdi, tdo, exit, hWord, hLegal⟩
  · exact (wordLegal_setState _ _ _ hWord).trans hLegal
  · obtain ⟨hPos, hMax, hTdi, hTdo⟩ := shiftLegal_iff.mp hLegal
    have hLive : ∀ k : Nat, (k < 2 ^ 16 ∧ ∃ m, v.pool[k]? = some m ∧ bytesFor n ≤ m.size) →
        k < 2 ^ 16 ∧ ∃ m, v'.pool[k]? = some m ∧ bytesFor n ≤ m.size := fun k =>
      And.imp_right fun ⟨m, hMem, hSize⟩ => ⟨m, hPool k m hMem, hSize⟩
    exact (wordLegal_shift _ hWord).trans
      (shiftLegal_iff.mpr ⟨hPos, hMax, fun k hk => hLive k (hTdi k hk), fun k hk => hLive k (hTdo k hk)⟩)

theorem legal_append {v v' : Seq} {w : Word64} (h : v.legal = true) (hCmds : v'.cmds = v.cmds ++ [w])
    (hPool : ∀ (k : Nat) (m : Memory), v.pool[k]? = some m → v'.pool[k]? = some m) (hWord : wordLegal v' w = true) : v'.legal = true := by
  refine Seq.legal_iff.mpr fun x hx => ?_
  rw [hCmds, List.mem_append, List.mem_singleton] at hx
  rcases hx with hx | rfl
  · exact wordLegal_mono hPool (Seq.legal_iff.mp h x hx)
  · exact hWord

theorem addState_legal {v : Seq} {st : TapState} {idle : Nat} (h : v.legal = true) (hLegal : setStateLegal st idle = true) :
    (v.addState st idle).legal = true :=
  legal_append h rfl (fun _ _ hMem => hMem)
    ((wordLegal_setState _ _ _ (decodeCommand_encodeSetState (setStateLegal_iff.mp hLegal).1)).trans hLegal)

/-- A buffer SEQ_ADD_SHIFT allocates holds its bits. -/
theorem addShift_newBuffer {v : Seq} {dir : Dir} {fill : Bool} {n : Nat} {wantTdi wantTdo : Bool} {exit : TapState} {k : Nat}
    (hOld : v.pool.length ≤ k) (hNew : k < v.pool.length + wantCount wantTdi wantTdo)
    (hRoom : v.pool.length + wantCount wantTdi wantTdo ≤ Config.handleCount) :
    k < 2 ^ 16 ∧ ∃ m, (v.addShift dir fill n wantTdi wantTdo exit).pool[k]? = some m ∧ bytesFor n ≤ m.size := by
  refine ⟨hNew.trans_le hRoom, newBuffer (bytesFor n), ?_, Nat.le_refl _⟩
  rw [Seq.addShift, List.getElem?_append_right hOld, List.getElem?_replicate_of_lt (by omega)]

theorem addShift_legal {v : Seq} {n : Nat} {wantTdi wantTdo : Bool} (h : v.legal = true) (hPos : 1 ≤ n) (hMax : n ≤ Config.maxShiftBits)
    (hRoom : v.pool.length + wantCount wantTdi wantTdo ≤ Config.handleCount) (dir : Dir) (fill : Bool) (exit : TapState) :
    (v.addShift dir fill n wantTdi wantTdo exit).legal = true := by
  have hWidth : n < 2 ^ 23 := Nat.lt_succ_of_le hMax
  have hLegal : shiftLegal (v.addShift dir fill n wantTdi wantTdo exit) n (v.tdiOf wantTdi fill) (v.tdoOf wantTdi wantTdo) = true := by
    refine shiftLegal_iff.mpr ⟨hPos, hWidth, fun k hk => ?_, fun k hk => ?_⟩
    · cases wantTdi with
      | false => cases hk
      | true =>
        cases hk
        exact addShift_newBuffer (Nat.le_refl _) (by simp only [wantCount, Bool.toNat_true]; omega) hRoom
    · cases wantTdo with
      | false => cases hk
      | true =>
        cases hk
        exact addShift_newBuffer (Nat.le_add_right _ _) (by simp only [wantCount, Bool.toNat_true]; omega) hRoom
  obtain ⟨-, -, hTdi, hTdo⟩ := shiftWellFormed_iff.mp (shiftLegal_wellFormed hLegal)
  exact legal_append h rfl (fun _ _ hMem => (addShift_pool_old (List.getElem?_eq_some_iff.mp hMem).1).trans hMem)
    ((wordLegal_shift _ (decodeCommand_encodeShift hWidth hTdi hTdo exit)).trans hLegal)

/-- A sequence the table may hold: its words are legal and its buffers have handles. -/
def SeqOk (v : Seq) : Prop := v.legal = true ∧ v.pool.length ≤ Config.handleCount

theorem ok_seqKept : SeqKept SeqOk where
  created := fun _ => ⟨rfl, Nat.zero_le _⟩
  cleared := fun _ _ => ⟨rfl, Nat.zero_le _⟩
  addState := fun _ _ _ h hLegal => ⟨addState_legal h.1 hLegal, h.2⟩
  addShift := fun v dir fill n wantTdi wantTdo exit h hPos hMax hRoom => ⟨addShift_legal h.1 hPos hMax hRoom dir fill exit, by
    rw [Seq.addShift, List.length_append, List.length_replicate]
    exact hRoom⟩
  consumed := fun _ h => h
  rebytes := fun _ _ hBytes h => ⟨hBytes.legal.trans h.1, hBytes.length.trans_le h.2⟩

/-! ## The sequence table -/

/-- From `s` to `u` the table's handles still rise, and its sequences have `G`. -/
def Tabled (G : Seq → Prop) (s u : State) : Prop :=
  (handlesRise 0 s.seqs = true → handlesRise 0 u.seqs = true) ∧ ∀ e ∈ u.seqs, G e.2

section

variable {G : Seq → Prop} {s t u : State}

theorem tabled_of_eq (hG : ∀ e ∈ s.seqs, G e.2) (h : u.seqs = s.seqs) : Tabled G s u := by
  unfold Tabled
  rw [h]
  exact ⟨id, hG⟩

theorem tabled_stops (hG : ∀ e ∈ s.seqs, G e.2) : Stops (Tabled G s) s :=
  ⟨tabled_of_eq hG rfl, fun _ _ => tabled_of_eq hG rfl, fun _ _ => tabled_of_eq hG rfl⟩

theorem Tabled.trans (a : Tabled G s t) (b : Tabled G t u) : Tabled G s u := ⟨fun h => b.1 (a.1 h), b.2⟩

/-- Writing one sequence at a handle below the limit. -/
theorem setSeq_tabled (hG : ∀ e ∈ s.seqs, G e.2) {q : Nat} (hHandle : handlesRise 0 s.seqs = true → q < Config.handleCount) {v : Seq}
    (hv : G v) : Tabled G s (s.setSeq q v) := by
  refine ⟨fun hRise => seqInsert_rise hRise (Nat.zero_le q) (hHandle hRise), fun e he => ?_⟩
  rcases seqInsert_mem he with rfl | hOld
  · exact hv
  · exact hG e hOld

/-- Writing a sequence that was live. -/
theorem setSeq_tabled_live (hG : ∀ e ∈ s.seqs, G e.2) {q : Nat} {v v' : Seq} (hSeq : s.seqAt q = some v) (hv : G v → G v') :
    Tabled G s (s.setSeq q v') :=
  setSeq_tabled hG (fun hRise => seqLookup_lt hRise hSeq) (hv (hG _ (seqLookup_mem hSeq)))

theorem Stores.tabled (h : Stores s u) (hKept : SeqKept G) (hG : ∀ e ∈ s.seqs, G e.2) : Tabled G s u := by
  refine ⟨h.rise, fun e he => ?_⟩
  obtain ⟨e', he', -, hBytes⟩ := h.mem e he
  exact hKept.rebytes _ _ hBytes (hG e' he')

/-! ### The operations that write it -/

theorem exec_seqDelete_tabled (hG : ∀ e ∈ s.seqs, G e.2) {q : Nat} (h : exec (.seqDelete q) s = .next t) : Tabled G s t := by
  have hStop := tabled_stops hG
  refine operation_answer hStop (fun _ => withSeq_answer hStop fun v hSeq => ?_) h
  exact ⟨fun hRise => seqErase_rise hRise, fun e he => hG e (seqErase_mem he)⟩

/-- PORT_INIT empties the table. -/
theorem exec_portInit_tabled (hG : ∀ e ∈ s.seqs, G e.2) {m : PinMap} (h : exec (.portInit m) s = .next t) : Tabled G s t := by
  refine exec_portInit_answer (tabled_stops hG) (fun _ _ => ?_) h
  obtain ⟨tdo, hWalk⟩ := walked_parked m s
  have hSeqs : (walk (List.replicate 5 true) (parked m s)).seqs = [] := hWalk.drives.seqs
  unfold Tabled
  rw [complete_seqs, hSeqs]
  exact ⟨fun _ => rfl, fun _ he => absurd he List.not_mem_nil⟩

section

variable (hKept : SeqKept G) (hG : ∀ e ∈ s.seqs, G e.2)

include hKept hG

theorem exec_seqCreate_tabled {node : Nat} (h : exec (.seqCreate node) s = .next t) : Tabled G s t := by
  have hStop := tabled_stops hG
  refine operation_answer hStop (fun _ => withinWidths_answer hStop fun _ => ?_) h
  dsimp only
  split
  next hFree => exact setSeq_tabled hG (fun _ => hFree) (hKept.created _)
  · exact hStop.fault _ (by decide)

theorem exec_seqAddState_tabled {q idle : Nat} {st : TapState} (h : exec (.seqAddState q st idle) s = .next t) : Tabled G s t := by
  have hStop := tabled_stops hG
  refine operation_answer hStop (fun _ => withOpenSeq_answer hStop fun v hSeq _ => withinWidths_answer hStop fun hFit => ?_) h
  split
  · exact hStop.error .badIdleOnUnstableState ⟨nofun, nofun⟩
  next hStable =>
    refine setSeq_tabled_live hG hSeq fun hv => hKept.addState v st idle hv (setStateLegal_iff.mpr ⟨fitAll_one.mp hFit, ?_⟩)
    rcases Nat.eq_zero_or_pos idle with hZero | hPos
    · exact .inl hZero
    · exact .inr (Bool.of_not_eq_false fun hUnstable => hStable ⟨hPos, hUnstable⟩)

theorem exec_seqAddShift_tabled {q flags n : Nat} {wi wo : Bool} {exit : TapState}
    (h : exec (.seqAddShift q flags n wi wo exit) s = .next t) : Tabled G s t := by
  have hStop := tabled_stops hG
  refine operation_answer hStop (fun _ => withOpenSeq_answer hStop fun v hSeq _ => withinWidths_answer hStop fun _ => ?_) h
  split
  · exact hStop.fault _ (by decide)
  split
  · exact hStop.error .zeroLengthShift ⟨nofun, nofun⟩
  split
  · exact hStop.fault _ (by decide)
  split
  · exact hStop.fault _ (by decide)
  exact setSeq_tabled_live hG hSeq fun hv => hKept.addShift v _ _ n wi wo exit hv (by omega) (by omega) (by omega)

theorem exec_seqClear_tabled {q : Nat} (h : exec (.seqClear q) s = .next t) : Tabled G s t := by
  have hStop := tabled_stops hG
  exact operation_answer hStop
    (fun _ => withSeq_answer hStop fun v hSeq => setSeq_tabled_live hG hSeq fun hv => hKept.cleared v hv) h

theorem exec_bufWrite_tabled {q k o : Nat} {bytes : List Byte} (h : exec (.bufWrite q k o bytes) s = .next t) : Tabled G s t := by
  have hStop := tabled_stops hG
  refine operation_answer hStop (fun _ => withSeq_answer hStop fun v hSeq => withinWidths_answer hStop fun _ => ?_) h
  cases hWrite : memWrite v.pool k o bytes with
  | none => exact hStop.fault .badBufferAccess (by decide)
  | some pool => exact setSeq_tabled_live hG hSeq fun hv => hKept.rebytes _ _ (memWrite_rebytes hWrite) hv

theorem exec_seqRun_tabled {q : Nat} (h : exec (.seqRun q) s = .next t) : Tabled G s t := by
  have hStop := tabled_stops hG
  refine operation_answer hStop (fun hReady => withOpenSeq_answer hStop fun v hSeq _ => ?_) h
  have hBegun : Tabled G s (beginRun q v s) := setSeq_tabled_live hG hSeq (hKept.consumed v)
  have hWords : Tabled G s (runWords v.cmds (beginRun q v s)) := by
    obtain ⟨u, tms, tdi, samples, hRan, -, -, hAnswer | hAnswer⟩ := runWords_cases v.cmds (beginRun_ready (q := q) (v := v) hReady)
    all_goals exact hAnswer ▸ hBegun.trans (hRan.stores.tabled hKept hBegun.2)
  dsimp only
  split <;> exact hWords

/-- What every host operation leaves of the sequence table. -/
theorem exec_tabled {i : Instr} (hHost : i.isHostOp = true) (h : exec i s = .next t) : Tabled G s t := by
  by_cases hInit : ∀ m, i ≠ .portInit m
  · by_cases hw : .seqs ∈ writes i
    · rcases seqs_writers hw hInit with hCommand | ⟨node, rfl⟩ | ⟨q, st, idle, rfl⟩ | ⟨q, flags, n, wi, wo, exit, rfl⟩ | ⟨q, rfl⟩ |
        ⟨q, rfl⟩ | ⟨q, k, o, bytes, rfl⟩ | ⟨q, rfl⟩
      · rw [hHost] at hCommand
        cases hCommand
      · exact exec_seqCreate_tabled hKept hG h
      · exact exec_seqAddState_tabled hKept hG h
      · exact exec_seqAddShift_tabled hKept hG h
      · exact exec_seqClear_tabled hKept hG h
      · exact exec_seqDelete_tabled hG h
      · exact exec_bufWrite_tabled hKept hG h
      · exact exec_seqRun_tabled hKept hG h
    · obtain ⟨levels, hActs, -⟩ := exec_acts_some h hInit
      exact tabled_of_eq hG (hActs.seqs hw)
  · push Not at hInit
    obtain ⟨m, rfl⟩ := hInit
    exact exec_portInit_tabled hG h

end

end

/-! ## Steps that run no host operation -/

/-- What of the sequences a step changes when it runs no host operation: bytes of the run's buffers, or `PSEQ` emptied. -/
theorem Stepped.stored_or_host {s t : State} (h : Stepped s t) :
    (∃ u, Stores s u ∧ t.seqs = u.seqs ∧ (t.pseq = u.pseq ∨ t.pseq = Seq.empty)) ∨
      ∃ rest i, i.isHostOp = true ∧ exec i (s.withHostQueue rest) = .next t := by
  cases h with
  | stuck h => exact .inl ⟨s, Stores.refl s, h ▸ rfl, .inl (h ▸ rfl)⟩
  | runEnd hLive q v hRun hSeq h => exact .inl ⟨s, Stores.refl s, h ▸ rfl, .inl (h ▸ rfl)⟩
  | command hReady q v w hRun hSeq hAt h =>
    cases hLegal : wordLegal s.curSeq w with
    | true =>
      obtain ⟨samples, hWord⟩ := wordBody_ran hReady.1 hLegal
      rw [advancePc_live (hWord.ran.fault.trans hReady.2)] at h
      exact .inl ⟨_, hWord.stores, h ▸ rfl, .inl (h ▸ rfl)⟩
    | false =>
      rw [wordBody_refused hReady.1 hLegal, advancePc_takeFault] at h
      exact .inl ⟨s, Stores.refl s, h ▸ rfl, .inl (h ▸ rfl)⟩
  | idle h => exact .inl ⟨s, Stores.refl s, h ▸ rfl, .inl (h ▸ rfl)⟩
  | refused hLive hRun record rest e hKind h =>
    have hPseq : t.pseq = s.pseq ∨ t.pseq = Seq.empty := h ▸ refuseRecord_answer (s := s.withHostQueue rest)
      (P := fun u => u.pseq = s.pseq ∨ u.pseq = Seq.empty)
      ⟨.inl rfl, fun _ _ => .inl rfl, fun _ _ => .inl rfl⟩ ⟨.inr rfl, fun _ _ => .inr rfl, fun _ _ => .inr rfl⟩ record hKind
    exact .inl ⟨s, Stores.refl s, h ▸ (refuseRecord_quiet record e (s.withHostQueue rest)).seqs, hPseq⟩
  | host hLive hRun rest i hHost h => exact .inr ⟨rest, i, hHost, h⟩

/-- Every step keeps the table's handles and a property of sequences that building and running keep. -/
theorem step_tabled {G : Seq → Prop} (hKept : SeqKept G) {s t : State} (h : step s = .next t) (hG : ∀ e ∈ s.seqs, G e.2) :
    Tabled G s t := by
  rcases (step_cases h).stored_or_host with ⟨u, hStores, hSeqs, -⟩ | ⟨rest, i, hHost, hExec⟩
  · have hTabled := hStores.tabled hKept hG
    unfold Tabled at *
    rwa [hSeqs]
  · exact exec_tabled (s := s.withHostQueue rest) hKept hG hHost hExec

theorem seqsLegal_iff (s : State) : s.seqsLegal = true ↔ handlesRise 0 s.seqs = true ∧ ∀ e ∈ s.seqs, SeqOk e.2 := by
  simp only [State.seqsLegal, Bool.and_eq_true, List.all_eq_true, decide_eq_true_eq, SeqOk]

/-- Settles O55: building and running keep a sequence legal (`ok_seqKept`), and every step builds or runs (`step_tabled`). -/
theorem stepKeepsSequences : Obligations.StepKeepsSequences := by
  intro s t hLegal h
  obtain ⟨hRise, hSeqs⟩ := (seqsLegal_iff s).mp hLegal
  obtain ⟨hRises, hKept⟩ := step_tabled ok_seqKept h hSeqs
  exact (seqsLegal_iff t).mpr ⟨hRises hRise, hKept⟩

end Sys2Proof.Machine
end

section
/-! PROOF. Every step keeps every buffer in canonical form and a run on a live sequence, and reaches no `BadCommand` from legal sequences
(10_state.md sections 5 and 6, 30_encoding.md R75, 43_executor.md R127). -/

namespace Sys2Proof.Machine

open Sys2Proof

/-! ## The buffers of the fixed sequences -/

section

variable {v : Seq}

theorem fillBuffer_wf (h : v.pool.all Memory.wf = true) (k n value : Nat) : (v.fillBuffer k n value).pool.all Memory.wf = true := by
  unfold Seq.fillBuffer
  split
  next hWrite => exact memWrite_wf h hWrite
  · exact h

theorem loadIr_wf (h : v.pool.all Memory.wf = true) (len opcode : Nat) : (v.loadIr len opcode).pool.all Memory.wf = true :=
  fillBuffer_wf (addShift_wf h _ _ _ _ _ _) _ _ _

theorem drScan_wf (h : v.pool.all Memory.wf = true) (n value : Nat) (wantTdo : Bool) :
    (v.drScan n value wantTdo).pool.all Memory.wf = true := fillBuffer_wf (addShift_wf h _ _ _ _ _ _) _ _ _

theorem drScanFill_wf (h : v.pool.all Memory.wf = true) (n : Nat) (ones wantTdo : Bool) :
    (v.drScanFill n ones wantTdo).pool.all Memory.wf = true := addShift_wf h _ _ _ _ _ _

theorem idleFor_wf (h : v.pool.all Memory.wf = true) (n : Nat) : (v.idleFor n).pool.all Memory.wf = true := h

theorem foldl_wf {α : Type} {f : Seq → α → Seq} (hf : ∀ v x, v.pool.all Memory.wf = true → (f v x).pool.all Memory.wf = true)
    (xs : List α) (h : v.pool.all Memory.wf = true) : (xs.foldl f v).pool.all Memory.wf = true := by
  induction xs generalizing v with
  | nil => exact h
  | cons x rest ih => exact ih (hf v x h)

end

theorem empty_tlr_wf : Seq.empty.tlr.pool.all Memory.wf = true := rfl

theorem jprogramSeq_wf (f : Family) (len : Nat) : (jprogramSeq f len).pool.all Memory.wf = true := by
  rw [jprogramSeq]
  exact loadIr_wf empty_tlr_wf _ _

theorem efuseProgramSeq_wf (f : Family) (len : Nat) (w : BitVec 64) : (efuseProgramSeq f len w).pool.all Memory.wf = true := by
  rw [efuseProgramSeq]
  exact idleFor_wf (drScan_wf (loadIr_wf empty_tlr_wf _ _) _ _ _) _

theorem efuseReadSeq_wf (f : Family) (len : Nat) (w : BitVec 64) : (efuseReadSeq f len w).pool.all Memory.wf = true := by
  rw [efuseReadSeq]
  exact drScan_wf (idleFor_wf (drScan_wf (loadIr_wf empty_tlr_wf _ _) _ _ _) _) _ _ _

theorem iscEnable_wf {v : Seq} (h : v.pool.all Memory.wf = true) (f : Family) (len : Nat) :
    (v.iscEnable f len).pool.all Memory.wf = true := by
  rw [Seq.iscEnable]
  exact idleFor_wf (drScan_wf (loadIr_wf h _ _) _ _ _) _

theorem bbramProgramSeq_wf (f : Family) (len : Nat) (key : Vector Byte 32) : (bbramProgramSeq f len key).pool.all Memory.wf = true := by
  rw [bbramProgramSeq]
  refine foldl_wf (fun v k h => ?_) _ (idleFor_wf (drScanFill_wf (loadIr_wf (iscEnable_wf empty_tlr_wf f len) _ _) _ _ _) _)
  rw [Seq.programWord]
  exact idleFor_wf (drScan_wf (loadIr_wf h _ _) _ _ _) _

theorem bbramVerifySeq_wf (f : Family) (len : Nat) : (bbramVerifySeq f len).pool.all Memory.wf = true := by
  rw [bbramVerifySeq]
  refine foldl_wf (fun v k h => ?_) _ (iscEnable_wf rfl f len)
  rw [Seq.readWord]
  exact idleFor_wf (drScanFill_wf (loadIr_wf h _ _) _ _ _) _

/-- Running a fixed sequence keeps its buffers canonical, and so does what follows when it leaves `PSEQ`. -/
theorem afterFixed_wf {levels : List Bool} {w : List Reg} {v : Seq} {next : State → State} {s : State} (hReady : s.ready)
    (hv : v.pool.all Memory.wf = true) (hw : .pseq ∉ w) (hNext : ∀ u, Acts w levels u (next u)) :
    (afterFixed v next s).pseq.pool.all Memory.wf = true := by
  have hRun : (runFixed v s).pseq.pool.all Memory.wf = true := by
    obtain ⟨u, tms, tdi, samples, hRan, -, -, hAnswer | hAnswer⟩ :=
      runWords_cases (s := (s.withPseq v).withExec { s.exec with seq := none, pc := 0 }) v.cmds hReady
    all_goals exact (congrArg (fun x : State => x.pseq.pool.all Memory.wf) hAnswer).trans (hRan.stores.pseqBytes.wf hv)
  exact afterFixed_answer (P := fun u => u.pseq.pool.all Memory.wf = true) (fun _ => hRun) fun _ => by rw [(hNext _).pseq hw]; exact hRun

/-- The buffers of `PSEQ` stay canonical under every host operation. -/
theorem exec_pseq_wf {i : Instr} {s t : State} (hWf : s.pseq.pool.all Memory.wf = true) (hHost : i.isHostOp = true)
    (h : exec i s = .next t) : t.pseq.pool.all Memory.wf = true := by
  have hStop : Stops (fun u => u.pseq.pool.all Memory.wf = true) s := ⟨hWf, fun _ _ => hWf, fun _ _ => hWf⟩
  have hEmptied : Stops (fun u => u.pseq.pool.all Memory.wf = true) (s.withPseq Seq.empty) := ⟨rfl, fun _ _ => rfl, fun _ _ => rfl⟩
  by_cases hInit : ∀ m, i ≠ .portInit m
  · by_cases hw : .pseq ∈ writes i
    · rcases pseq_writers hw hInit with hCommand | rfl | rfl | rfl | ⟨row, bit, page, red, rfl⟩ | ⟨row, page, red, rfl⟩
      · rw [hHost] at hCommand
        cases hCommand
      · refine protocolOperation_answer hStop hEmptied (fun f hReady _ => ?_) h
        exact afterFixed_wf (s := s.withPseq Seq.empty) (w := []) hReady (jprogramSeq_wf _ _) List.not_mem_nil fun u =>
          ((delay_waited _ u).acts []).trans (complete_acts [] _ _)
      · refine protocolOperation_answer hStop hEmptied (fun f hReady _ => withKey_answer hEmptied ?_) h
        split
        · exact hEmptied.fault _ (by decide)
        · exact afterFixed_wf (s := s.withPseq Seq.empty) (w := []) hReady (bbramProgramSeq_wf _ _ _) List.not_mem_nil
            (complete_acts [] .nothing)
      · refine protocolOperation_answer hStop hEmptied (fun f hReady _ => withKey_answer hEmptied ?_) h
        exact afterFixed_wf (s := s.withPseq Seq.empty) (w := [.readback]) hReady (bbramVerifySeq_wf _ _) (by simp)
          (finishVerify_acts (by simp))
      · refine protocolOperation_answer hStop hEmptied (fun f hReady _ => withinWidths_answer hEmptied fun _ => ?_) h
        split
        · exact hEmptied.fault _ (by decide)
        cases Config.efuseDrEncode f (BitVec.ofNat 16 row) (BitVec.ofNat 5 bit) (BitVec.ofNat 8 page) red true with
        | none => exact hEmptied.error .badFuseAddress ⟨nofun, nofun⟩
        | some word =>
          refine withinWidths_answer hEmptied fun _ => ?_
          exact afterFixed_wf (s := s.withPseq Seq.empty) (w := []) hReady (efuseProgramSeq_wf _ _ _) List.not_mem_nil (handshake_acts [])
      · refine protocolOperation_answer hStop hEmptied (fun f hReady _ => withinWidths_answer hEmptied fun _ => ?_) h
        cases Config.efuseDrEncode f (BitVec.ofNat 16 row) 0#5 (BitVec.ofNat 8 page) red false with
        | none => exact hEmptied.error .badFuseAddress ⟨nofun, nofun⟩
        | some word =>
          refine withinWidths_answer hEmptied fun _ => ?_
          exact afterFixed_wf (s := s.withPseq Seq.empty) (w := []) hReady (efuseReadSeq_wf _ _ _) List.not_mem_nil fun u =>
            complete_acts [] _ u
    · obtain ⟨levels, hActs, -⟩ := exec_acts_some h hInit
      rw [hActs.pseq hw]
      exact hWf
  · push Not at hInit
    obtain ⟨m, rfl⟩ := hInit
    refine exec_portInit_answer hStop (fun _ _ => ?_) h
    obtain ⟨tdo, hWalk⟩ := walked_parked m s
    have hPseq : (walk (List.replicate 5 true) (parked m s)).pseq = Seq.empty := hWalk.drives.pseq
    exact congrArg (fun v : Seq => v.pool.all Memory.wf) hPseq

theorem memoryWf_iff (s : State) :
    s.memoryWf = true ↔ (∀ e ∈ s.seqs, e.2.pool.all Memory.wf = true) ∧ s.pseq.pool.all Memory.wf = true := by
  rw [State.memoryWf, Bool.and_eq_true, List.all_eq_true]

/-- Settles O54: building and running keep the buffers of a sequence canonical (`wf_seqKept`), and every fixed sequence is built of
canonical ones (`exec_pseq_wf`). -/
theorem stepKeepsMemory : Obligations.StepKeepsMemory := by
  intro s t hWf h
  obtain ⟨hSeqs, hPseq⟩ := (memoryWf_iff s).mp hWf
  refine (memoryWf_iff t).mpr ⟨(step_tabled wf_seqKept h hSeqs).2, ?_⟩
  rcases (step_cases h).stored_or_host with ⟨u, hStores, -, hSame | hEmpty⟩ | ⟨rest, i, hHost, hExec⟩
  · rw [hSame]
    exact hStores.pseqBytes.wf hPseq
  · rw [hEmpty]
    rfl
  · exact exec_pseq_wf (s := s.withHostQueue rest) hPseq hHost hExec

/-! ## The run in progress -/

theorem execLive_of_none {s : State} (h : s.activeRun = none) : s.execLive := fun q hq => by
  rw [h] at hq
  cases hq

theorem activeRun_of_seq {s : State} (h : s.exec.seq = none) : s.activeRun = none := by
  rcases activeRun_spec s with ⟨-, hRun⟩ | ⟨-, hRun⟩
  · exact hRun.trans h
  · exact hRun

/-- No run begins but by SEQ_RUN. -/
theorem Acts.activeRun_none {w : List Reg} {levels : List Bool} {s t : State} (h : Acts w levels s t) (hw : .run ∉ w)
    (hRun : s.activeRun = none) : t.activeRun = none := by
  rcases h.run hw with hSame | hNone
  · unfold State.activeRun at *
    rw [h.init, hSame]
    exact hRun
  · exact activeRun_of_seq hNone

theorem endRun_activeRun (s : State) : (endRun s).activeRun = none := activeRun_of_seq rfl

/-- A command of a run leaves it live, one command further. -/
theorem execLive_advanced {s u : State} {q : Nat} {v : Seq} {w : Word64} (hRise : handlesRise 0 s.seqs = true) (hRun : s.exec.seq = some q)
    (hSeq : s.seqAt q = some v) (hConsumed : v.consumed = true) (hAt : v.cmds[s.exec.pc]? = some w) (hStores : Stores s u) :
    (u.setPc (s.exec.pc + 1)).execLive := by
  intro k hk
  have hSame : (u.setPc (s.exec.pc + 1)).exec.seq = some q := hStores.seq.trans hRun
  have hKey : k = q := by
    rcases activeRun_spec (u.setPc (s.exec.pc + 1)) with ⟨-, hActive⟩ | ⟨-, hActive⟩ <;> rw [hActive] at hk
    · exact Option.some.inj (hk.symm.trans hSame)
    · cases hk
  subst hKey
  rcases hStores.lookup hRise k with ⟨hNone, -⟩ | ⟨v₁, v', hOld, hNew, hBytes⟩
  · rw [hSeq] at hNone
    cases hNone
  · obtain rfl : v = v₁ := Option.some.inj (hSeq.symm.trans hOld)
    exact ⟨v', hNew, hBytes.consumed.trans hConsumed, by
      rw [hBytes.cmds]
      exact (List.getElem?_eq_some_iff.mp hAt).1⟩

/-- SEQ_RUN leaves no run, or one that stopped at a word of its sequence. -/
theorem exec_seqRun_execLive {s t : State} {q : Nat} (hRise : s.port.init = true → handlesRise 0 s.seqs = true) (hRun : s.activeRun = none)
    (h : exec (.seqRun q) s = .next t) : t.execLive := by
  have hLive := execLive_of_none hRun
  have hStop : Stops State.execLive s := ⟨hLive, fun _ _ => hLive, fun _ _ => hLive⟩
  refine operation_answer hStop (fun hReady => withOpenSeq_answer hStop fun v hSeq _ => ?_) h
  dsimp only
  split
  next hFault =>
    obtain ⟨u, tms, tdi, samples, hRan, -, hPc, hAnswer⟩ := runWords_cases v.cmds (beginRun_ready (q := q) (v := v) hReady)
    have hStopped : u.execLive := by
      intro k hk
      obtain ⟨v', hNew, hBytes⟩ := hRan.seqAt_run (hRise hReady.1) hSeq
      have hSame : u.exec.seq = some q := hRan.stores.seq
      rcases activeRun_spec u with ⟨-, hActive⟩ | ⟨-, hActive⟩ <;> rw [hActive] at hk
      · obtain rfl : k = q := Option.some.inj (hk.symm.trans hSame)
        exact ⟨v', hNew, hBytes.consumed, by rw [hBytes.cmds]; exact hPc.trans_eq (Nat.zero_add _)⟩
      · cases hk
    rcases hAnswer with hAnswer | hAnswer <;> rw [hAnswer] <;> exact hStopped
  · exact execLive_of_none (endRun_activeRun _)

theorem exec_execLive {i : Instr} {s t : State} (hRise : s.port.init = true → handlesRise 0 s.seqs = true) (hRun : s.activeRun = none)
    (h : exec i s = .next t) : t.execLive := by
  by_cases hInit : ∀ m, i ≠ .portInit m
  · by_cases hw : .run ∈ writes i
    · obtain ⟨q, rfl⟩ := run_writers hw hInit
      exact exec_seqRun_execLive hRise hRun h
    · obtain ⟨levels, hActs, -⟩ := exec_acts_some h hInit
      exact execLive_of_none (hActs.activeRun_none hw hRun)
  · push Not at hInit
    obtain ⟨m, rfl⟩ := hInit
    have hLive := execLive_of_none hRun
    refine exec_portInit_answer ⟨hLive, fun _ _ => hLive, fun _ _ => hLive⟩ (fun _ _ => execLive_of_none (activeRun_of_seq ?_)) h
    obtain ⟨tdo, hWalk⟩ := walked_parked m s
    exact congrArg Exec.seq hWalk.drives.exec

theorem Stepped.execLive {s t : State} (h : Stepped s t) (hRise : s.port.init = true → handlesRise 0 s.seqs = true) (hLive : s.execLive) :
    t.execLive := by
  cases h with
  | stuck h => exact h ▸ hLive
  | runEnd _ q v hRun hSeq h => exact h ▸ execLive_of_none (endRun_activeRun s)
  | command hReady q v w hRun hSeq hAt h =>
    subst h
    cases hLegal : wordLegal s.curSeq w with
    | true =>
      obtain ⟨samples, hWord⟩ := wordBody_ran hReady.1 hLegal
      obtain ⟨v', hSeq', hConsumed, -⟩ := hLive q ((activeRun_ready hReady).trans hRun)
      obtain rfl : v = v' := Option.some.inj (hSeq.symm.trans hSeq')
      rw [advancePc_live (hWord.ran.fault.trans hReady.2), hWord.pc]
      exact execLive_advanced (hRise hReady.1) hRun hSeq hConsumed hAt hWord.stores
    | false =>
      rw [wordBody_refused hReady.1 hLegal, advancePc_takeFault]
      exact hLive
  | idle h => exact h ▸ hLive
  | refused hFault hRun record rest e hKind h =>
    have hPopped := withHostQueue_acts (w := [.queue, .pseq]) (by simp) s rest
    have hActs : Acts [.queue, .pseq] [] s t :=
      h ▸ refuseRecord_answer hPopped.stops (hPopped.trans (withPseq_acts (by simp) _ Seq.empty)).stops record hKind
    exact execLive_of_none (hActs.activeRun_none (by simp) hRun)
  | host hFault hRun rest i hHost h => exact exec_execLive (s := s.withHostQueue rest) hRise hRun h

/-- A step stops the model only when the sequence of the run is not there. -/
theorem step_next {s : State} (hLive : s.execLive) : ∃ t, step s = .next t := by
  cases hFault : s.fault with
  | some r => exact ⟨_, step_faulted hFault⟩
  | none =>
    rcases fetch_spec s with ⟨hRun, ⟨-, hFetch⟩ | ⟨record, rest, -, hFetch⟩⟩ |
      ⟨q, hRun, ⟨hNone, hFetch⟩ | ⟨v, hSeq, ⟨hEnd, hFetch⟩ | ⟨w, hAt, hFetch⟩⟩⟩
    · exact ⟨s, by simp only [step, hFault, hFetch, Option.isSome_none, Bool.false_eq_true, if_false]⟩
    · cases hDecoded : decodeHostOp record with
      | error e => exact ⟨_, step_refused hFault hFetch hDecoded⟩
      | ok r =>
        obtain ⟨t, hExec⟩ := exec_next r.1 (s.withHostQueue rest)
        exact ⟨t, (step_host hFault hFetch hDecoded).trans hExec⟩
    · obtain ⟨v, hSeq, -⟩ := hLive q hRun
      rw [hNone] at hSeq
      cases hSeq
    · obtain ⟨hReady, hExec⟩ := ready_of_activeRun hFault hRun
      exact ⟨_, step_runEnd hReady hExec hSeq hEnd⟩
    · obtain ⟨hReady, hExec⟩ := ready_of_activeRun hFault hRun
      exact ⟨_, step_word hReady hExec hSeq hAt⟩

/-- Settles O59: a live run always has a next step (`step_next`), and every kind of step leaves a live run or none (`Stepped.execLive`). -/
theorem stepKeepsRun : Obligations.StepKeepsRun := by
  intro s hRise hLive
  obtain ⟨t, h⟩ := step_next hLive
  exact ⟨t, h, (step_cases h).execLive hRise hLive⟩

end Sys2Proof.Machine
end

section
/-! PROOF. From legal sequences no step reaches `BadCommand` (30_encoding.md R75, 43_executor.md R127): every word of a legal sequence runs,
and so does every fixed sequence of the protocol layer. -/

namespace Sys2Proof.Machine

open Sys2Proof

/-- The block has not taken `BadCommand`. -/
def Sound (s : State) : Prop := s.fault ≠ some .badCommand

section

variable {s t u : State}

theorem sound_of_live (h : s.fault = none) : Sound s := fun hBad => by
  rw [h] at hBad
  cases hBad

theorem sound_stops (h : Sound s) : Stops Sound s := ⟨h, fun _ hr hBad => hr (Option.some.inj hBad), fun _ _ => h⟩

theorem Acts.sound {w : List Reg} {levels : List Bool} (h : Acts w levels s t) (hw : .fault ∉ w) (hSound : Sound s) : Sound t :=
  fun hBad => hSound (h.fault hw hBad)

theorem legal_of_seqAt {q : Nat} {v : Seq} (hLegal : s.seqsLegal = true) (hSeq : s.seqAt q = some v) :
    ∀ w ∈ v.cmds, wordLegal v w = true :=
  Seq.legal_iff.mp (((seqsLegal_iff s).mp hLegal).2 _ (seqLookup_mem hSeq)).1

/-! ## SEQ_RUN -/

theorem exec_seqRun_sound {q : Nat} (hLegal : s.seqsLegal = true) (hSound : Sound s) (h : exec (.seqRun q) s = .next t) : Sound t := by
  have hStop := sound_stops hSound
  have hRise := ((seqsLegal_iff s).mp hLegal).1
  refine operation_answer hStop (fun hReady => withOpenSeq_answer hStop fun v hSeq _ => ?_) h
  obtain ⟨tdi, samples, hRan, -⟩ := runWords_legal (words := v.cmds) (beginRun_ready (q := q) (v := v) hReady)
    (beginRun_rise hRise hSeq) fun w hw => by
      rw [beginRun_curSeq hRise, wordLegal_consumed]
      exact legal_of_seqAt hLegal hSeq w hw
  have hLive : (runWords v.cmds (beginRun q v s)).fault = none := hRan.fault.trans hReady.2
  dsimp only
  split
  · exact sound_of_live hLive
  · exact sound_of_live hLive

/-! ## The protocol operations -/

/-- A fixed sequence that plays does not fault; neither does what follows it. -/
theorem afterFixed_sound {v : Seq} {cur : TapState} {tms tdi : List Bool} {captures : List Capture} {next : State → State}
    {levels : List Bool} {w : List Reg} (hReady : s.ready) (hPlays : Plays s.port v cur tms tdi captures) (hw : .fault ∉ w)
    (hNext : ∀ u, Acts w levels u (next u)) : Sound (afterFixed v next (s.withPseq Seq.empty)) := by
  obtain ⟨samples, hFixed⟩ := hPlays.fixed hReady
  rw [afterFixed_live hFixed.fault]
  exact (hNext _).sound hw (sound_of_live hFixed.fault)

/-- An IR length that SELECT_TARGET or IDENTIFY left is one a SHIFT word holds. -/
theorem irLen_bounds {p : Port} (h : p.irLen ≠ 0#8) : 1 ≤ p.irLen.toNat ∧ p.irLen.toNat < 2 ^ 23 := by
  have hBound := p.irLen.isLt
  refine ⟨Nat.one_le_iff_ne_zero.mpr fun hZero => h ?_, by omega⟩
  rw [BitVec.toNat_eq, hZero]
  rfl

section

variable (hSound : Sound s)

include hSound

theorem exec_jprogram_sound (h : exec .jprogram s = .next t) : Sound t := by
  refine protocolOperation_answer (sound_stops hSound) (sound_stops (s := s.withPseq Seq.empty) hSound) (fun f hReady hLength => ?_) h
  obtain ⟨hPos, hMax⟩ := irLen_bounds hLength
  exact afterFixed_sound (w := []) hReady (jprogramSeq_plays s.port f hPos hMax) List.not_mem_nil fun u =>
    ((delay_waited _ u).acts []).trans (complete_acts [] _ _)

theorem exec_bbramProgram_sound (h : exec .bbramProgram s = .next t) : Sound t := by
  have hEmptied := sound_stops (s := s.withPseq Seq.empty) hSound
  refine protocolOperation_answer (sound_stops hSound) hEmptied (fun f hReady hLength => withKey_answer hEmptied ?_) h
  obtain ⟨hPos, hMax⟩ := irLen_bounds hLength
  split
  · exact hEmptied.fault _ (by decide)
  next hShort =>
    exact afterFixed_sound (w := []) hReady (bbramProgramSeq_plays s.port f hPos hMax s.key.bytes (Nat.le_of_not_lt hShort))
      List.not_mem_nil (complete_acts [] .nothing)

theorem exec_bbramVerify_sound (h : exec .bbramVerify s = .next t) : Sound t := by
  have hEmptied := sound_stops (s := s.withPseq Seq.empty) hSound
  refine protocolOperation_answer (sound_stops hSound) hEmptied (fun f hReady hLength => withKey_answer hEmptied ?_) h
  obtain ⟨hPos, hMax⟩ := irLen_bounds hLength
  exact afterFixed_sound (w := [.readback]) hReady (bbramVerifySeq_plays s.port f hPos hMax) (by simp) (finishVerify_acts (by simp))

theorem exec_efuseProgramRow_sound {row bit page : Nat} {red : Bool} (h : exec (.efuseProgramRow row bit page red) s = .next t) :
    Sound t := by
  have hEmptied := sound_stops (s := s.withPseq Seq.empty) hSound
  refine protocolOperation_answer (sound_stops hSound) hEmptied
    (fun f hReady hLength => withinWidths_answer hEmptied fun _ => ?_) h
  obtain ⟨hPos, hMax⟩ := irLen_bounds hLength
  split
  · exact hEmptied.fault _ (by decide)
  cases Config.efuseDrEncode f (BitVec.ofNat 16 row) (BitVec.ofNat 5 bit) (BitVec.ofNat 8 page) red true with
  | none => exact hEmptied.error .badFuseAddress ⟨nofun, nofun⟩
  | some word =>
    refine withinWidths_answer hEmptied fun hIdle => ?_
    exact afterFixed_sound (w := []) hReady (efuseProgramSeq_plays s.port f hPos hMax word (fitAll_one.mp hIdle)) List.not_mem_nil
      (handshake_acts [])

theorem exec_efuseReadRow_sound {row page : Nat} {red : Bool} (h : exec (.efuseReadRow row page red) s = .next t) : Sound t := by
  have hEmptied := sound_stops (s := s.withPseq Seq.empty) hSound
  refine protocolOperation_answer (sound_stops hSound) hEmptied
    (fun f hReady hLength => withinWidths_answer hEmptied fun _ => ?_) h
  obtain ⟨hPos, hMax⟩ := irLen_bounds hLength
  cases Config.efuseDrEncode f (BitVec.ofNat 16 row) 0#5 (BitVec.ofNat 8 page) red false with
  | none => exact hEmptied.error .badFuseAddress ⟨nofun, nofun⟩
  | some word =>
    refine withinWidths_answer hEmptied fun hIdle => ?_
    exact afterFixed_sound (w := []) hReady (efuseReadSeq_plays s.port f hPos hMax word (fitAll_one.mp hIdle)) List.not_mem_nil fun u =>
      complete_acts [] _ u

end

/-! ## Every step -/

theorem parked_fault (m : PinMap) (s : State) : (parked m s).fault = s.fault := rfl

theorem exec_sound {i : Instr} (hLegal : s.seqsLegal = true) (hSound : Sound s) (hHost : i.isHostOp = true) (h : exec i s = .next t) :
    Sound t := by
  by_cases hInit : ∀ m, i ≠ .portInit m
  · by_cases hw : .fault ∈ writes i
    · rcases fault_writers hw hHost with ⟨q, rfl⟩ | rfl | rfl | rfl | ⟨row, bit, page, red, rfl⟩ | ⟨row, page, red, rfl⟩
      · exact exec_seqRun_sound hLegal hSound h
      · exact exec_jprogram_sound hSound h
      · exact exec_bbramProgram_sound hSound h
      · exact exec_bbramVerify_sound hSound h
      · exact exec_efuseProgramRow_sound hSound h
      · exact exec_efuseReadRow_sound hSound h
    · obtain ⟨levels, hActs, -⟩ := exec_acts_some h hInit
      exact hActs.sound hw hSound
  · push Not at hInit
    obtain ⟨m, rfl⟩ := hInit
    refine exec_portInit_answer (sound_stops hSound) (fun hLive _ => sound_of_live ?_) h
    obtain ⟨tdo, hWalk⟩ := walked_parked m s
    rw [complete_fault, hWalk.drives.fault, parked_fault]
    exact hLive

end

/-- Settles O60: the word a run comes to is legal, and no host operation reaches an illegal one (`exec_sound`). -/
theorem badCommandUnreachable : Obligations.BadCommandUnreachable := by
  intro s t hLegal _ hFault h
  have hSound := sound_of_live hFault
  cases step_cases h with
  | stuck h => exact h ▸ hSound
  | runEnd _ q v _ _ h => exact h ▸ hSound
  | command hReady q v w hRun hSeq hAt h =>
    subst h
    have hWord : wordLegal s.curSeq w = true := by
      rw [curSeq_run hRun hSeq]
      exact legal_of_seqAt hLegal hSeq w (List.mem_of_getElem? hAt)
    obtain ⟨samples, hRan⟩ := wordBody_ran hReady.1 hWord
    rw [advancePc_fault]
    exact sound_of_live (hRan.ran.fault.trans hFault)
  | idle h => exact h ▸ hSound
  | refused _ _ record rest e hKind h =>
    exact h ▸ refuseRecord_answer (P := Sound) (sound_stops (s := s.withHostQueue rest) hSound)
      (sound_stops (s := (s.withHostQueue rest).withPseq Seq.empty) hSound) record hKind
  | host _ _ rest i hHost h => exact exec_sound (s := s.withHostQueue rest) hLegal hSound hHost h

end Sys2Proof.Machine
end
